-- ==== Sys2Proof/Word.lean ====
section
/-! DEFINITION. The word types of RJCORE (`00_scope.md` rule R9, `30_encoding.md` rule R60): bytes, byte sequences of a
fixed length, command words, responses, schedule words, the S-box tables and the schedule. Nothing is signed. -/

namespace Sys2Proof

/-- A byte: an unsigned 8-bit value, also a polynomial of degree at most 7 over GF(2) (R9). -/
abbrev Byte := BitVec 8

/-- `Bytes(n)` of R9: `n` bytes, indices 0 .. n-1. -/
abbrev Bytes (n : Nat) := Vector Byte n

/-- A command word (R60, R61): one 32-bit word, bit 31 the most significant. -/
abbrev CommandWord := BitVec 32

/-- A response (R65): `ERR` in bits 15..8, `RES` in bits 7..0. -/
abbrev Response := BitVec 16

/-- A word of the key schedule (R19, R43): four bytes, byte 0 its "first byte"; never an integer. -/
abbrev KeyWord := Bytes 4

/-- One of the two 256-byte tables of the substitution box (R17). -/
abbrev SBox := Bytes 256

/-- The schedule store `W[0..119]` (R19). -/
abbrev Schedule := Vector KeyWord 120

/-- A 32-byte register: `FB0`, `FB1` (R25). -/
abbrev Register32 := Bytes 32

end Sys2Proof
end

