-- ==== Sys2Proof/Syntax.lean ====
section
/-! DEFINITION. The 23 commands of `RJCORE-CMD/1` (`30_encoding.md` rule R62), one constructor per row of
`spec/opcode_table.json`, with their operands in the order of R62. Every operand is an unsigned byte taken from its
field (R67); a value out of a command's range is no matter of syntax (R63: the command's own rule says which error it
raises), so every byte is admitted. -/

namespace Sys2Proof

/-- A command. -/
inductive Instr where
  /-- `GFADD a, b` (R88). -/
  | gfadd (a b : Byte)
  /-- `GFMUL a, b, m` (R89). -/
  | gfmul (a b m : Byte)
  /-- `GFINV a, m` (R90). -/
  | gfinv (a m : Byte)
  /-- `GFIRR p` (R91). -/
  | gfirr (p : Byte)
  /-- `GFIRRN k` (R92). -/
  | gfirrn (k : Byte)
  /-- `CFG nk, nb, m` (R101). -/
  | cfg (nk nb m : Byte)
  /-- `SBGEN` (R106). -/
  | sbgen
  /-- `SBFWD x` (R107). -/
  | sbfwd (x : Byte)
  /-- `SBINV x` (R108). -/
  | sbinv (x : Byte)
  /-- `KEXP len` (R125). -/
  | kexp (len : Byte)
  /-- `RCON j` (R126). -/
  | rcon (j : Byte)
  /-- `ENCB len` (R152). -/
  | encb (len : Byte)
  /-- `DECB len` (R153). -/
  | decb (len : Byte)
  /-- `CTXINIT mode, pad, ivlen` (R172). -/
  | ctxinit (mode pad ivlen : Byte)
  /-- `START dir` (R173). -/
  | start (dir : Byte)
  /-- `MBLK len` (R175). -/
  | mblk (len : Byte)
  /-- `MPART n` (R184). -/
  | mpart (n : Byte)
  /-- `PAD n` (R195). -/
  | pad (n : Byte)
  /-- `UNPAD` (R200). -/
  | unpad
  /-- `WRB buf, idx, val` (R222). -/
  | wrb (buf idx val : Byte)
  /-- `RDB buf, idx` (R221). -/
  | rdb (buf idx : Byte)
  /-- `RDST sel` (R223). -/
  | rdst (sel : Byte)
  /-- `RST` (R224). -/
  | rst
  deriving DecidableEq, Repr

/-- The four byte fields of a command word (R61). -/
structure Fields where
  op : Byte
  a : Byte
  b : Byte
  m : Byte
  deriving DecidableEq, Repr

end Sys2Proof
end

