-- ==== Sys2Proof/WellFormed.lean ====
section
/-! DEFINITION. Which command words are well formed (`30_encoding.md` rules R61 to R64), said as the column "fields
used" of R62 says it and apart from the decoder: the opcode is listed and every field the command does not use is zero.
A term of `Instr` needs no check: its operands are bytes by type and R63 counts no operand value as an illegal encoding. -/

namespace Sys2Proof

/-- The column "fields used" of R62 for one opcode: whether the command uses the fields `a`, `b`, `m`. -/
structure FieldUse where
  a : Bool
  b : Bool
  m : Bool
  deriving DecidableEq, Repr

/-- Format A with all three operands. -/
def FieldUse.abm : FieldUse := ⟨true, true, true⟩
/-- Format A with the operands `a` and `b`. -/
def FieldUse.ab : FieldUse := ⟨true, true, false⟩
/-- Format A with the operands `a` and `m`. -/
def FieldUse.am : FieldUse := ⟨true, false, true⟩
/-- Format A with the operand `a`. -/
def FieldUse.aOnly : FieldUse := ⟨true, false, false⟩
/-- Format Z: no operand. -/
def FieldUse.none : FieldUse := ⟨false, false, false⟩

/-- R62, the columns `op` and "fields used", row by row. -/
def fieldUseTable : List (Byte × FieldUse) :=
  [(0x10, .ab), (0x11, .abm), (0x12, .am), (0x13, .aOnly), (0x14, .aOnly),
   (0x20, .abm), (0x21, .none), (0x22, .aOnly), (0x23, .aOnly),
   (0x30, .aOnly), (0x31, .aOnly), (0x40, .aOnly), (0x41, .aOnly)] ++
  [(0x50, .abm), (0x51, .aOnly), (0x52, .aOnly), (0x53, .aOnly), (0x54, .aOnly), (0x55, .none),
   (0x60, .abm), (0x61, .ab), (0x70, .aOnly), (0x7F, .none)]

/-- The field use of an opcode, none for an opcode R62 does not list (R64). -/
def fieldUse (op : Byte) : Option FieldUse := fieldUseTable.lookup op

/-- R64: the opcode is one of the 23 of R62. -/
def Fields.opcodeListed (f : Fields) : Bool := (fieldUse f.op).isSome

/-- R63: every field the command does not use is zero. -/
def Fields.reservedZero (f : Fields) (u : FieldUse) : Bool :=
  (u.a || f.a == 0) && (u.b || f.b == 0) && (u.m || f.m == 0)

/-- The fields form a command: a listed opcode (R64) and zero reserved fields (R63). -/
def Fields.wellFormed (f : Fields) : Bool :=
  match fieldUse f.op with
  | none => false
  | some u => f.reservedZero u

end Sys2Proof
end

