-- ==== Sys2Proof/Decode.lean ====
section
/-! DEFINITION. Decoding and encoding of command words (`30_encoding.md` rules R60 to R67). The decoder is total on all
2^32 words and rejects by name; the encoder writes the words of R62. -/

namespace Sys2Proof

/-- Why a word is no command. Both raise `E_ILLEGAL` (R63, R64); R66 makes the opcode check first. -/
inductive DecodeError where
  /-- R64: the opcode is not listed in R62. -/
  | unknownOpcode
  /-- R63: a field the command does not use is nonzero. -/
  | reservedField
  deriving DecidableEq, Repr

/-- R67: `op = word[31:24]`, `a = word[23:16]`, `b = word[15:8]`, `m = word[7:0]`. -/
def fieldsOf (w : CommandWord) : Fields :=
  ⟨w.extractLsb' 24 8, w.extractLsb' 16 8, w.extractLsb' 8 8, w.extractLsb' 0 8⟩

/-- R61, R68: `word = (op << 24) | (a << 16) | (b << 8) | m`. -/
def wordOf (f : Fields) : CommandWord := f.op ++ f.a ++ f.b ++ f.m

/-- Answer the command if its reserved fields are zero (R63). -/
def ifReservedZero (zero : Bool) (i : Instr) : Except DecodeError Instr :=
  if zero then .ok i else .error .reservedField

/-- The command the fields hold, by opcode (R62), with the reserved fields of each row required zero (R63); every
opcode R62 does not list is refused (R64). -/
def decodeFields (f : Fields) : Except DecodeError Instr :=
  match f.op.toNat with
  | 0x10 => ifReservedZero (f.m == 0) (.gfadd f.a f.b)
  | 0x11 => .ok (.gfmul f.a f.b f.m)
  | 0x12 => ifReservedZero (f.b == 0) (.gfinv f.a f.m)
  | 0x13 => ifReservedZero (f.b == 0 && f.m == 0) (.gfirr f.a)
  | 0x14 => ifReservedZero (f.b == 0 && f.m == 0) (.gfirrn f.a)
  | 0x20 => .ok (.cfg f.a f.b f.m)
  | 0x21 => ifReservedZero (f.a == 0 && f.b == 0 && f.m == 0) .sbgen
  | 0x22 => ifReservedZero (f.b == 0 && f.m == 0) (.sbfwd f.a)
  | 0x23 => ifReservedZero (f.b == 0 && f.m == 0) (.sbinv f.a)
  | 0x30 => ifReservedZero (f.b == 0 && f.m == 0) (.kexp f.a)
  | 0x31 => ifReservedZero (f.b == 0 && f.m == 0) (.rcon f.a)
  | 0x40 => ifReservedZero (f.b == 0 && f.m == 0) (.encb f.a)
  | 0x41 => ifReservedZero (f.b == 0 && f.m == 0) (.decb f.a)
  | 0x50 => .ok (.ctxinit f.a f.b f.m)
  | 0x51 => ifReservedZero (f.b == 0 && f.m == 0) (.start f.a)
  | 0x52 => ifReservedZero (f.b == 0 && f.m == 0) (.mblk f.a)
  | 0x53 => ifReservedZero (f.b == 0 && f.m == 0) (.mpart f.a)
  | 0x54 => ifReservedZero (f.b == 0 && f.m == 0) (.pad f.a)
  | 0x55 => ifReservedZero (f.a == 0 && f.b == 0 && f.m == 0) .unpad
  | 0x60 => .ok (.wrb f.a f.b f.m)
  | 0x61 => ifReservedZero (f.m == 0) (.rdb f.a f.b)
  | 0x70 => ifReservedZero (f.b == 0 && f.m == 0) (.rdst f.a)
  | 0x7F => ifReservedZero (f.a == 0 && f.b == 0 && f.m == 0) .rst
  | _ => .error .unknownOpcode

/-- The decoder: any 32-bit word to a command or a named refusal (R62 to R66, steps 1 and 2). -/
def decode (w : CommandWord) : Except DecodeError Instr := decodeFields (fieldsOf w)

/-- The fields of a command: its opcode (R62) and its operands, unused fields 0 (R68). -/
def encodeFields : Instr → Fields
  | .gfadd a b => ⟨0x10, a, b, 0⟩
  | .gfmul a b m => ⟨0x11, a, b, m⟩
  | .gfinv a m => ⟨0x12, a, 0, m⟩
  | .gfirr p => ⟨0x13, p, 0, 0⟩
  | .gfirrn k => ⟨0x14, k, 0, 0⟩
  | .cfg nk nb m => ⟨0x20, nk, nb, m⟩
  | .sbgen => ⟨0x21, 0, 0, 0⟩
  | .sbfwd x => ⟨0x22, x, 0, 0⟩
  | .sbinv x => ⟨0x23, x, 0, 0⟩
  | .kexp len => ⟨0x30, len, 0, 0⟩
  | .rcon j => ⟨0x31, j, 0, 0⟩
  | .encb len => ⟨0x40, len, 0, 0⟩
  | .decb len => ⟨0x41, len, 0, 0⟩
  | .ctxinit mode pad ivlen => ⟨0x50, mode, pad, ivlen⟩
  | .start dir => ⟨0x51, dir, 0, 0⟩
  | .mblk len => ⟨0x52, len, 0, 0⟩
  | .mpart n => ⟨0x53, n, 0, 0⟩
  | .pad n => ⟨0x54, n, 0, 0⟩
  | .unpad => ⟨0x55, 0, 0, 0⟩
  | .wrb buf idx val => ⟨0x60, buf, idx, val⟩
  | .rdb buf idx => ⟨0x61, buf, idx, 0⟩
  | .rdst sel => ⟨0x70, sel, 0, 0⟩
  | .rst => ⟨0x7F, 0, 0, 0⟩

/-- The encoder: the one word of a command. -/
def encode (i : Instr) : CommandWord := wordOf (encodeFields i)

/-- The columns `match` and `mask` of R62, row by row: a word selects a command iff `(word & mask) = match`. -/
def maskTable : List (CommandWord × CommandWord) :=
  [(0x10000000, 0xFF0000FF), (0x11000000, 0xFF000000), (0x12000000, 0xFF00FF00), (0x13000000, 0xFF00FFFF),
   (0x14000000, 0xFF00FFFF), (0x20000000, 0xFF000000), (0x21000000, 0xFFFFFFFF), (0x22000000, 0xFF00FFFF),
   (0x23000000, 0xFF00FFFF), (0x30000000, 0xFF00FFFF), (0x31000000, 0xFF00FFFF), (0x40000000, 0xFF00FFFF)] ++
  [(0x41000000, 0xFF00FFFF), (0x50000000, 0xFF000000), (0x51000000, 0xFF00FFFF), (0x52000000, 0xFF00FFFF),
   (0x53000000, 0xFF00FFFF), (0x54000000, 0xFF00FFFF), (0x55000000, 0xFFFFFFFF), (0x60000000, 0xFF000000),
   (0x61000000, 0xFF0000FF), (0x70000000, 0xFF00FFFF), (0x7F000000, 0xFFFFFFFF)]

/-- R62: the word selects the row whose `match` and `mask` these are. -/
def selects (w : CommandWord) (row : CommandWord × CommandWord) : Bool := w &&& row.2 == row.1

/-- The command word whose bits below `nbits` are those of `w` and whose other bits are 0 (log entry 16). -/
def tableWord (nbits w : Nat) : CommandWord := BitVec.ofNat 32 (w % 2 ^ nbits)

/-- The command the decoder reads from a word numbered as `spec/opcode_table.json` numbers its bits. -/
def decodeTableWord (nbits w : Nat) : Option Instr :=
  match decode (tableWord nbits w) with
  | .ok i => some i
  | .error _ => none

end Sys2Proof
end

