-- ==== Sys2Proof/Config.lean ====
section
/-! DEFINITION. What an implementation fixes and what the spec leaves open (`00_scope.md` rule R7,
`92_eei_decisions.md`, table of open parameters). -/

namespace Sys2Proof

/-- Where the CTR counter lies in the IV: the alternatives named in R190. -/
inductive CounterPlace where
  | firstEight
  | lastEight
  deriving DecidableEq, Repr

/-- The byte order of the CTR counter: the alternatives named in R190. -/
inductive CounterOrder where
  | bigEndian
  | littleEndian
  deriving DecidableEq, Repr

/-- FREE (log entry 5). Byte `k` of `DeltaGen(seed, n)` is `Config.deltaByte seed n k`: R193 leaves the generator OPEN
and lets a model assume only that it is a function of the seed and the count. No body: no proof can see a value. -/
opaque Config.deltaByte : BitVec 32 → Nat → Nat → Byte

/-- FREE (log entry 4). Byte `k` of the ISO10126 filler of draw number `d` (R199): arbitrary bytes. No body. -/
opaque Config.fillerByte : Nat → Nat → Byte

/-- `CTR_LAYOUT`, first half (R7, R190; log entry 6): the last 8 bytes of the IV. -/
def Config.counterPlace : CounterPlace := .lastEight

/-- `CTR_LAYOUT`, second half (R7, R190; log entry 6): big-endian. -/
def Config.counterOrder : CounterOrder := .bigEndian

/-- `UNIFORM_MODULUS` (R7, R146, R128; log entry 7): MixColumns and Rcon do not use the configured modulus. -/
def Config.uniformModulus : Bool := false

/-- `ZEROS_PAD_ALIGNED` (R7, R206; log entry 8): Zeros padding adds nothing to an aligned message. It is read only by
the host procedure of R206, no command depends on it. -/
def Config.zerosPadAligned : Bool := false

end Sys2Proof
end

