-- ==== Sys2Proof/Machine/Names.lean ====
section
/-! DEFINITION. The fixed sets of names the spec gives: legal word counts and round counts, buffers, modes, paddings,
directions, errors, and what the host may do to the unit. Plain types; their numbers are in `Operands.lean` and `Flags.lean`. -/

namespace Sys2Proof.Machine

/-- The values of `NK` and `NB`: "8 bits, value 4, 6 or 8" (R16, R6; log entry 10). -/
inductive WordCount where
  | four
  | six
  | eight
  deriving DecidableEq, Repr

/-- The values of `NR`: "8 bits, value 10, 12 or 14" (R16; log entry 10). -/
inductive RoundCount where
  | ten
  | twelve
  | fourteen
  deriving DecidableEq, Repr

/-- The four buffers (R41). -/
inductive Buffer where
  | keybuf
  | ivbuf
  | din
  | dout
  deriving DecidableEq, Repr

/-- The recognised modes (R170). -/
inductive Mode where
  | ecb
  | cbc
  | pcbc
  | cfb
  | ofb
  | ctr
  | randomDelta
  deriving DecidableEq, Repr

/-- The recognised paddings (R170). -/
inductive Padding where
  | zeros
  | pkcs7
  | ansix923
  | iso10126
  deriving DecidableEq, Repr

/-- The errors (R251). -/
inductive ErrorName where
  /-- `E_CFG_KEYSIZE` -/
  | cfgKeysize
  /-- `E_CFG_BLOCKSIZE` -/
  | cfgBlocksize
  /-- `E_CFG_IVSIZE` -/
  | cfgIvsize
  /-- `E_CFG_MODULUS` -/
  | cfgModulus
  /-- `E_CFG_NOIV` -/
  | cfgNoiv
  /-- `E_CFG_SELECTOR` -/
  | cfgSelector
  /-- `E_CFG_PARAM` -/
  | cfgParam
  /-- `E_ORD_NOKEY` -/
  | ordNokey
  /-- `E_ORD_NOCTX` -/
  | ordNoctx
  /-- `E_ORD_NOCFG` -/
  | ordNocfg
  /-- `E_PAD` -/
  | pad
  /-- `E_ILLEGAL` -/
  | illegal
  /-- `E_OPERAND` -/
  | operand
  deriving DecidableEq, Repr

/-- The four kinds of error (R250). -/
inductive ErrorKind where
  | configuration
  | usageOrdering
  | paddingIntegrity
  | illegalOperand
  deriving DecidableEq, Repr

/-- What the host can do to the unit: issue one command word (R11), or assert hardware reset (R280; log entry 3). -/
inductive HostEvent where
  | command (w : CommandWord)
  | hardwareReset
  deriving DecidableEq, Repr

end Sys2Proof.Machine
end

