-- ==== Sys2Proof/Machine/State.lean ====
section
/-! DEFINITION. The state of RJCORE (`10_state.md` rules R13 to R26): every register, table and buffer the spec names,
then the two fields that are the model's own. The reset state is the table of R30. -/

namespace Sys2Proof.Machine

/-- The buffer space (R40 (a), R41): cells (address, byte), address = 32 · id + index (log entry 9), addresses strictly
rising, no cell holding what an unlisted address reads as. -/
abbrev Memory := List Host.Cell

/-- The state. -/
structure State where
  /-- `RES` (R13). -/
  res : Byte
  /-- `ERR` (R14). -/
  err : Byte
  /-- `EFLAGS` (R15). -/
  eflags : Byte
  /-- `CFG_VALID` (R16). -/
  cfgValid : Bool
  /-- `NK` (R16). -/
  nk : WordCount
  /-- `NB` (R16). -/
  nb : WordCount
  /-- `MOD` (R16). -/
  modulus : Byte
  /-- `NR` (R16). -/
  nr : RoundCount
  /-- `SB_VALID` (R17). -/
  sbValid : Bool
  /-- `SBF[0..255]` (R17). -/
  sbf : SBox
  /-- `SBI[0..255]` (R17). -/
  sbi : SBox
  /-- `KS_VALID` (R19). -/
  ksValid : Bool
  /-- `W[0..119]` (R19). -/
  w : Schedule
  /-- `CTX_VALID` (R23). -/
  ctxValid : Bool
  /-- `MODE`, the raw selector (R23). -/
  mode : Byte
  /-- `PADSEL`, the raw selector (R23). -/
  padsel : Byte
  /-- `IVLEN` (R23). -/
  ivlen : Byte
  /-- `IV_PRESENT` (R23). -/
  ivPresent : Bool
  /-- `RUN` (R24). -/
  run : Bool
  /-- `DIR` (R24): false = encrypt (0), true = decrypt (1). -/
  dir : Bool
  /-- `FB0[0..31]` (R25). -/
  fb0 : Register32
  /-- `FB1[0..31]` (R25). -/
  fb1 : Register32
  /-- `BLKCNT` (R26). -/
  blkcnt : BitVec 64
  /-- `KEYBUF`, `IVBUF`, `DIN`, `DOUT` (R18, R20, R21, R22, R41). -/
  mem : Memory
  /-- The MODEL's own: what the host has yet to do to the unit, next first (R11, R12; log entry 1). -/
  host : List HostEvent
  /-- The MODEL's own: how many ISO10126 fillers have been drawn (R199; log entry 4). -/
  draws : Nat
  deriving DecidableEq, Repr

/-- Why the machine stops with a fault. -/
inductive Fault where
  /-- Raised by `MBLK` alone, where `RUN = 1` and `MODE > 6`. R28 says that no reachable state is so and R175 that the
  command needs no selector check, hence no rule gives an effect there. Safe: the model stops (log entry 11). -/
  | openCallWithoutMode
  deriving DecidableEq, Repr

/-- Why the machine refuses an instruction. -/
inductive Refusal where
  /-- Raised by `exec` for an instruction with no meaning yet; no arm raises it. Safe: the model stops. -/
  | notModelled (mnemonic : String)
  deriving DecidableEq, Repr

/-- What a step or a meaning answers. -/
abbrev Result := Host.Outcome State Fault Refusal

/-- What an address of the buffer space that is not listed reads as: R30, all bytes of all four buffers `0x00`. -/
def Memory.unlisted : Byte := 0x00

/-- The machine right after reset: the table of R30. -/
def State.reset : State where
  res := 0x00
  err := 0x00
  eflags := 0x00
  cfgValid := false
  nk := .four
  nb := .four
  modulus := 0x1B
  nr := .ten
  sbValid := false
  sbf := Vector.replicate 256 0x00
  sbi := Vector.replicate 256 0x00
  ksValid := false
  w := Vector.replicate 120 (Vector.replicate 4 0x00)
  ctxValid := false
  mode := 0x00
  padsel := 0x00
  ivlen := 0x00
  ivPresent := false
  run := false
  dir := false
  fb0 := Vector.replicate 32 0x00
  fb1 := Vector.replicate 32 0x00
  blkcnt := 0
  mem := []
  host := []
  draws := 0

end Sys2Proof.Machine
end

