-- ==== Sys2Proof/Machine/Flags.lean ====
section
/-! DEFINITION. Every flag computation: the error codes and kinds (`60_exceptions.md` rules R250, R251), the bit of
`EFLAGS` a code sets (R252), the byte `FLAGS` (`10_state.md` rule R27) and the response (`30_encoding.md` rule R65). -/

namespace Sys2Proof.Machine

/-- The value of `ERR` for an error (R251). -/
def ErrorName.code : ErrorName → Byte
  | .cfgKeysize => 0x10
  | .cfgBlocksize => 0x11
  | .cfgIvsize => 0x12
  | .cfgModulus => 0x13
  | .cfgNoiv => 0x14
  | .cfgSelector => 0x15
  | .cfgParam => 0x16
  | .ordNokey => 0x20
  | .ordNoctx => 0x21
  | .ordNocfg => 0x22
  | .pad => 0x30
  | .illegal => 0x40
  | .operand => 0x41

/-- The kind of an error (R251, column "kind"). -/
def ErrorName.kind : ErrorName → ErrorKind
  | .cfgKeysize | .cfgBlocksize | .cfgIvsize | .cfgModulus | .cfgNoiv | .cfgSelector | .cfgParam => .configuration
  | .ordNokey | .ordNoctx | .ordNocfg => .usageOrdering
  | .pad => .paddingIntegrity
  | .illegal | .operand => .illegalOperand

/-- The bit of `EFLAGS` for a kind (R15). -/
def ErrorKind.bit : ErrorKind → Nat
  | .configuration => 0
  | .usageOrdering => 1
  | .paddingIntegrity => 2
  | .illegalOperand => 3

/-- `EFLAGS` with the bit `(code >> 4) - 1` set (R252). -/
def stickyFlags (eflags : Byte) (e : ErrorName) : Byte :=
  eflags ||| ((0x01 : Byte) <<< ((e.code >>> 4).toNat - 1))

/-- A one-bit register at bit `i` of a byte. -/
def bitAt (b : Bool) (i : Nat) : Byte := if b then (0x01 : Byte) <<< i else 0x00

/-- `FLAGS`, the byte `RDST 0` returns (R27). -/
def State.flags (s : State) : Byte :=
  bitAt s.cfgValid 0 ||| bitAt s.sbValid 1 ||| bitAt s.ksValid 2 ||| bitAt s.ctxValid 3
    ||| bitAt s.run 4 ||| bitAt s.dir 5 ||| bitAt s.ivPresent 6

/-- The response presented after a command (R65): bits 15..8 `ERR`, bits 7..0 `RES`. -/
def State.response (s : State) : Response := s.err ++ s.res

end Sys2Proof.Machine
end

