-- ==== Sys2Proof/Machine/Operands.lean ====
section
/-! DEFINITION. What operand bytes and registers stand for: word counts and round counts (R6, R101, R121), buffer ids and
access rights (R41, R220), mode, padding and direction selectors (R69, R170, R171). -/

namespace Sys2Proof.Machine

/-- The number a word count is. -/
def WordCount.toNat : WordCount → Nat
  | .four => 4
  | .six => 6
  | .eight => 8

/-- `NK` or `NB` as the register's byte (R16, R223). -/
def WordCount.byte (c : WordCount) : Byte := BitVec.ofNat 8 c.toNat

/-- R101: a word count operand is 4, 6 or 8. -/
def wordCount (b : Byte) : Option WordCount :=
  match b.toNat with
  | 4 => some .four
  | 6 => some .six
  | 8 => some .eight
  | _ => none

/-- The number a round count is. -/
def RoundCount.toNat : RoundCount → Nat
  | .ten => 10
  | .twelve => 12
  | .fourteen => 14

/-- `NR` as the register's byte (R16, R223). -/
def RoundCount.byte (c : RoundCount) : Byte := BitVec.ofNat 8 c.toNat

/-- `Rounds(nk, nb)` (R121): both at most 4, 10; else both at most 6, 12; otherwise 14. -/
def rounds (nk nb : WordCount) : RoundCount :=
  if nk.toNat ≤ 4 ∧ nb.toNat ≤ 4 then .ten
  else if nk.toNat ≤ 6 ∧ nb.toNat ≤ 6 then .twelve
  else .fourteen

/-- `B = 4 · NB`, the block size in bytes (R6, R16). -/
def blockBytes (nb : WordCount) : Nat := 4 * nb.toNat

/-- `4 · NK`, the key size in bytes (R6). -/
def keyBytes (nk : WordCount) : Nat := 4 * nk.toNat

/-- `NB · (NR + 1)`, the number of words of the schedule (R122). -/
def scheduleWords (nb : WordCount) (nr : RoundCount) : Nat := nb.toNat * (nr.toNat + 1)

/-- The id of a buffer (R41). -/
def Buffer.id : Buffer → Nat
  | .keybuf => 0
  | .ivbuf => 1
  | .din => 2
  | .dout => 3

/-- The buffer with an id, none for 4..255 (R41). -/
def bufferOf (b : Byte) : Option Buffer :=
  match b.toNat with
  | 0 => some .keybuf
  | 1 => some .ivbuf
  | 2 => some .din
  | 3 => some .dout
  | _ => none

/-- The size of every buffer (R41): 32 bytes. -/
def bufferSize : Nat := 32

/-- The address of byte `idx` of a buffer in the model's numbering of the buffer space (log entry 9). -/
def Buffer.addr (b : Buffer) (idx : Nat) : Nat := bufferSize * b.id + idx

/-- R41, column `WRB`: the buffers the host may write. -/
def Buffer.hostWrites : Buffer → Bool
  | .keybuf | .ivbuf | .din => true
  | .dout => false

/-- R41, column `RDB`: the buffers the host may read. -/
def Buffer.hostReads : Buffer → Bool
  | .din | .dout => true
  | .keybuf | .ivbuf => false

/-- The mode of a selector, none for 7..255 (R170). -/
def modeOf (b : Byte) : Option Mode :=
  match b.toNat with
  | 0 => some .ecb
  | 1 => some .cbc
  | 2 => some .pcbc
  | 3 => some .cfb
  | 4 => some .ofb
  | 5 => some .ctr
  | 6 => some .randomDelta
  | _ => none

/-- The selector of a mode (R69, R170). -/
def Mode.selector : Mode → Byte
  | .ecb => 0
  | .cbc => 1
  | .pcbc => 2
  | .cfb => 3
  | .ofb => 4
  | .ctr => 5
  | .randomDelta => 6

/-- The stream-style modes CFB, OFB, CTR, RandomDelta, which skip padding; the others are padded (R171). -/
def Mode.streamStyle : Mode → Bool
  | .ecb | .cbc | .pcbc => false
  | .cfb | .ofb | .ctr | .randomDelta => true

/-- The modes with a keystream, which alone have a partial block: `MODE ∈ {3, 4, 5}` (R184). -/
def Mode.hasKeystream : Mode → Bool
  | .cfb | .ofb | .ctr => true
  | .ecb | .cbc | .pcbc | .randomDelta => false

/-- R205, column "Parallelizable encrypt": what an implementation may overlap inside; no command depends on it. -/
def Mode.parallelEncrypt : Mode → Bool
  | .ecb | .ctr | .randomDelta => true
  | .cbc | .pcbc | .cfb | .ofb => false

/-- R205, column "Parallelizable decrypt". -/
def Mode.parallelDecrypt : Mode → Bool
  | .ecb | .cbc | .ctr | .randomDelta => true
  | .pcbc | .cfb | .ofb => false

/-- The padding of a selector, none for 4..255 (R170). -/
def paddingOf (b : Byte) : Option Padding :=
  match b.toNat with
  | 0 => some .zeros
  | 1 => some .pkcs7
  | 2 => some .ansix923
  | 3 => some .iso10126
  | _ => none

/-- The selector of a padding (R69, R170). -/
def Padding.selector : Padding → Byte
  | .zeros => 0
  | .pkcs7 => 1
  | .ansix923 => 2
  | .iso10126 => 3

end Sys2Proof.Machine
end

