-- ==== Sys2Proof/Machine/Ops.lean ====
section
/-! DEFINITION. The named operations over memory and registers: reading and writing the buffer space (R10, R40, R41),
byte sequences and 32-byte registers, completing a command (`return`, R10), raising an error (`raise`, R252), reset
(R280), and taking the next thing the host does (R11). Returning from an error: there is nothing to return from (R258). -/

namespace Sys2Proof.Machine

/-- The byte at an address of the buffer space. -/
def Memory.read : Memory → Nat → Byte
  | [], _ => Memory.unlisted
  | (b, v) :: rest, a => if b = a then v else Memory.read rest a

/-- The cells other than the one at an address. -/
def Memory.erase (m : Memory) (a : Nat) : Memory := m.filter fun c => c.1 != a

/-- A cell put in its place by address. -/
def Memory.insert : Memory → Nat → Byte → Memory
  | [], a, v => [(a, v)]
  | (b, u) :: rest, a, v => if a < b then (a, v) :: (b, u) :: rest else (b, u) :: Memory.insert rest a v

/-- The memory with a byte written: what an unlisted address reads as anyway is not listed. -/
def Memory.write (m : Memory) (a : Nat) (v : Byte) : Memory :=
  if v = Memory.unlisted then m.erase a else (m.erase a).insert a v

/-- The memory with bytes written one after another, the first at an address. -/
def Memory.writeRange : Memory → Nat → List Byte → Memory
  | m, _, [] => m
  | m, a, v :: rest => Memory.writeRange (m.write a v) (a + 1) rest

/-- The canonical form: addresses strictly rising, every address one of the 128 of the buffer space (R41), no cell
holding what an unlisted address reads as. -/
abbrev Memory.wf (m : Memory) : Prop :=
  m.Pairwise (fun c d => c.1 < d.1) ∧ ∀ c ∈ m, c.1 < 4 * bufferSize ∧ c.2 ≠ Memory.unlisted

/-- `BUF[idx]` (R10, `MemRead`). -/
def State.byte (s : State) (b : Buffer) (idx : Nat) : Byte := s.mem.read (b.addr idx)

/-- `BUF[0..n-1]`. -/
def State.bytes (s : State) (b : Buffer) (n : Nat) : Bytes n := Vector.ofFn fun i => s.byte b i.val

/-- `BUF[idx] <- v` (R10, `MemWrite`). -/
def State.setByte (s : State) (b : Buffer) (idx : Nat) (v : Byte) : State :=
  { s with mem := s.mem.write (b.addr idx) v }

/-- `BUF[idx ..] <- vs`. -/
def State.setBytes (s : State) (b : Buffer) (idx : Nat) (vs : List Byte) : State :=
  { s with mem := s.mem.writeRange (b.addr idx) vs }

/-- `X ^ Y` on sequences of one length (R9). -/
def xorBytes {n : Nat} (x y : Bytes n) : Bytes n := Vector.ofFn fun i => x[i] ^^^ y[i]

/-- `0^n` (R9). -/
def zeroBytes (n : Nat) : Bytes n := Vector.replicate n 0x00

/-- `X[i]`; every use is in range (R43, R190, R193 name the indices), the 0 beyond is never met (log entry 14). -/
def byteAt {n : Nat} (x : Bytes n) (i : Nat) : Byte := x[i]?.getD 0x00

/-- `R[0..n-1]` of a 32-byte register, for n at most 32. -/
def firstBytes (r : Register32) (n : Nat) : Bytes n := Vector.ofFn fun i => byteAt r i.val

/-- `R[0..n-1] <- x`, the other bytes kept (R175). -/
def setFirstBytes {n : Nat} (r : Register32) (x : Bytes n) : Register32 :=
  Vector.ofFn fun i => if i.val < n then byteAt x i.val else r[i]

/-- `R[0..n-1] <- x`, the other bytes 0 (R174). -/
def fillRegister {n : Nat} (x : Bytes n) : Register32 :=
  Vector.ofFn fun i => if i.val < n then byteAt x i.val else 0x00

/-- `DOUT[0..n-1] <- y ; DOUT[n..31] <- 0^(32-n)` (R21). -/
def State.setDout {n : Nat} (s : State) (y : Bytes n) : State :=
  s.setBytes .dout 0 (y.toList ++ List.replicate (bufferSize - n) 0x00)

/-- `return v` (R10): the command completes, `ERR <- 0x00`, `RES <- v`. -/
def State.answer (v : Byte) (s : State) : State := { s with err := 0x00, res := v }

/-- `raise e` (R252), applied to the state BEFORE the command: `ERR <- code`, `RES <- 0x00`, the kind's bit of `EFLAGS`
is set, and no other state changes. This is the taking of every exception of the unit. -/
def State.raise (e : ErrorName) (s : State) : State :=
  { s with err := e.code, res := 0x00, eflags := stickyFlags s.eflags e }

/-- Every piece of the unit's state at its reset value (R224, R280, R30). What the host has yet to do and the count of
draws are no state of the unit and stay (log entries 1, 4). -/
def State.toReset (s : State) : State := { State.reset with host := s.host, draws := s.draws }

/-- What the host does next (R11). -/
inductive Fetched where
  | idle
  | hardwareReset (s : State)
  | command (w : CommandWord) (s : State)
  deriving DecidableEq, Repr

/-- Take the next host event off the list (R11: one command at a time, in the order the host issues them, R12). -/
def State.fetch (s : State) : Fetched :=
  match s.host with
  | [] => .idle
  | .hardwareReset :: rest => .hardwareReset { s with host := rest }
  | .command w :: rest => .command w { s with host := rest }

end Sys2Proof.Machine
end

