-- ==== Sys2Proof/Machine/Field.lean ====
section
/-! DEFINITION. The field arithmetic unit (`40_field_arithmetic.md` rules R80 to R87). -/

namespace Sys2Proof.Machine

/-- `Add(a, b)` (R80). -/
def fieldAdd (a b : Byte) : Byte := a ^^^ b

/-- One doubling of R81: shift left one bit; if the bit shifted out was 1, XOR the modulus. -/
def xtime (m a : Byte) : Byte := if a.msb then (a <<< 1) ^^^ m else a <<< 1

/-- The loop of R81, `k` iterations to go. -/
def mulLoop (m : Byte) : Nat → Byte → Byte → Byte → Byte
  | 0, _, _, acc => acc
  | k + 1, a, b, acc => mulLoop m k (xtime m a) (b >>> 1) (if b.getLsbD 0 then acc ^^^ a else acc)

/-- `Mul(a, b, m)` (R81): always 8 iterations, for every modulus byte. -/
def fieldMul (a b m : Byte) : Byte := mulLoop m 8 a b 0x00

/-- The loop of R83, `k` bits of the exponent to go, least significant first. -/
def invLoop (m : Byte) : Nat → Byte → Byte → Byte → Byte
  | 0, r, _, _ => r
  | k + 1, r, s, e => invLoop m k (if e.getLsbD 0 then fieldMul r s m else r) (fieldMul s s m) (e >>> 1)

/-- `Inv(a, m)` (R83): `a^254` by square-and-multiply. -/
def fieldInv (a m : Byte) : Byte := invLoop m 8 0x01 a 254

/-- A polynomial over GF(2) of degree at most 8: bit `i` is the coefficient of `x^i` (R85). -/
abbrev Poly := BitVec 9

/-- `deg(v)`: the index of the highest set bit (R85), for `v ≠ 0`. -/
def polyDeg (v : Poly) : Nat := v.toNat.log2

/-- The loop of `PolyMod` (R85) with a bound on its rounds: each round lowers the degree. -/
def polyModLoop (d : Poly) : Nat → Poly → Poly
  | 0, f => f
  | k + 1, f =>
    if f ≠ 0 ∧ polyDeg d ≤ polyDeg f then polyModLoop d k (f ^^^ (d <<< (polyDeg f - polyDeg d))) else f

/-- `PolyMod(f, d)` (R85): at most 9 rounds, since `f` has at most 9 bits. -/
def polyMod (f d : Poly) : Poly := polyModLoop d 9 f

/-- `SmallIrreducibles` (R86): the irreducible polynomials of degree 1 to 4. -/
def smallIrreducibles : List Poly := [0b10, 0b11, 0b111, 0b1011, 0b1101, 0b10011, 0b11001, 0b11111]

/-- `0x100 | p`: the degree-8 polynomial a modulus byte denotes (R9, R85). -/
def modulusPoly (p : Byte) : Poly := 0x100 ||| p.setWidth 9

/-- `IsIrreducible(p)` (R85). -/
def isIrreducible (p : Byte) : Bool :=
  if p.getLsbD 0 then smallIrreducibles.all fun d => polyMod (modulusPoly p) d != 0 else false

/-- `IrreducibleList` (R87), ascending. -/
def irreducibleList : List Byte :=
  [0x1B, 0x1D, 0x2B, 0x2D, 0x39, 0x3F, 0x4D, 0x5F, 0x63, 0x65, 0x69, 0x71, 0x77, 0x7B, 0x87] ++
  [0x8B, 0x8D, 0x9F, 0xA3, 0xA9, 0xB1, 0xBD, 0xC3, 0xCF, 0xD7, 0xDD, 0xE7, 0xF3, 0xF5, 0xF9]

/-- The canonical modulus `0x1B` (`00_scope.md`, glossary). -/
def canonicalModulus : Byte := 0x1B

/-- The modulus of MixColumns and of the round constants: `0x1B` whatever `MOD` is, unless `UNIFORM_MODULUS` (R120,
R128, R146). -/
def roundModulus (configured : Byte) : Byte := if Config.uniformModulus then configured else canonicalModulus

end Sys2Proof.Machine
end

