-- ==== Sys2Proof/Machine/Sbox.lean ====
section
/-! DEFINITION. The substitution box (`41_sbox.md` rules R100, R102 to R105). -/

namespace Sys2Proof.Machine

/-- `rotl8(x, n)` for 1 ≤ n ≤ 7 (R9). -/
def rotl8 (x : Byte) (n : Nat) : Byte := (x <<< n) ||| (x >>> (8 - n))

/-- `Affine(x)` (R100). -/
def affine (x : Byte) : Byte := x ^^^ rotl8 x 1 ^^^ rotl8 x 2 ^^^ rotl8 x 3 ^^^ rotl8 x 4 ^^^ 0x63

/-- `ForwardTable(m)` (R102): `F[b] = Affine(Inv(b, m))`. -/
def forwardTable (m : Byte) : SBox := Vector.ofFn fun b => affine (fieldInv (BitVec.ofNat 8 b.val) m)

/-- The entry of a table for a byte. -/
def lookup (t : SBox) (x : Byte) : Byte := t[x.toNat]'(x.isLt)

/-- `InverseTable(F)` (R103): `I[F[b]] = b` for b = 0..255 (log entry 14 for a table that is no permutation). -/
def inverseTable (f : SBox) : SBox :=
  (List.range 256).foldl (fun t b => t.setIfInBounds (lookup f (BitVec.ofNat 8 b)).toNat (BitVec.ofNat 8 b)) (zeroBytes 256)

/-- `EnsureSbox()` (R105, R104): the lazy build; the state after it, or the error it raises. -/
def State.ensureSbox (s : State) : Except ErrorName State :=
  if s.sbValid then .ok s
  else if isIrreducible s.modulus then
    .ok { s with sbf := forwardTable s.modulus, sbi := inverseTable (forwardTable s.modulus), sbValid := true }
  else .error .cfgModulus

end Sys2Proof.Machine
end

