-- ==== Sys2Proof/Machine/Schedule.lean ====
section
/-! DEFINITION. The key-expansion engine (`42_key_expansion.md` rules R120, R122 to R124, R128). -/

namespace Sys2Proof.Machine

/-- `Rcon(n + 1)` under a modulus (R120): `Rcon(1) = 0x01`, each next one the double of the one before. -/
def rconSucc (m : Byte) : Nat → Byte
  | 0 => 0x01
  | n + 1 => fieldMul (rconSucc m n) 0x02 m

/-- `Rcon(j)` under a modulus, for j ≥ 1 (R120). `Rcon(0)` is left undefined by R120 and never asked for: `RCON 0` is an
error (R126) and the scheduler's index is `i div Nk` with `i ≥ Nk` (R123; log entry 14). -/
def rcon (m : Byte) (j : Nat) : Byte := rconSucc m (j - 1)

/-- `RotWord` (R124). -/
def rotWord (t : KeyWord) : KeyWord := #v[t[1], t[2], t[3], t[0]]

/-- `SubWord` (R124). -/
def subWord (t : KeyWord) (f : SBox) : KeyWord := #v[lookup f t[0], lookup f t[1], lookup f t[2], lookup f t[3]]

/-- Word `i` of the schedule store; every use is below 120 (R122), the zero word beyond is never met (log entry 14). -/
def wordAt (w : Schedule) (i : Nat) : KeyWord := w[i]?.getD (zeroBytes 4)

/-- `temp` of R123 for index `i`, made from `w[i-1]`. `m` is the modulus of `Rcon` (R128). -/
def scheduleTemp (nk : Nat) (f : SBox) (m : Byte) (i : Nat) (prev : KeyWord) : KeyWord :=
  if i % nk = 0 then
    let t := subWord (rotWord prev) f
    #v[t[0] ^^^ rcon m (i / nk), t[1], t[2], t[3]]
  else if nk > 6 ∧ i % nk = 4 then subWord prev f
  else prev

/-- Word `i` of `KeyExpand` (R123), given the words before it: the key verbatim, then `w[i-nk] ^ temp`. -/
def scheduleWord {n : Nat} (nk : Nat) (key : Bytes n) (f : SBox) (m : Byte) (w : Schedule) (i : Nat) : KeyWord :=
  if i < nk then #v[byteAt key (4 * i), byteAt key (4 * i + 1), byteAt key (4 * i + 2), byteAt key (4 * i + 3)]
  else xorBytes (wordAt w (i - nk)) (scheduleTemp nk f m i (wordAt w (i - 1)))

/-- `KeyExpand` (R123) written over the first `count` words of the store, in order; the words beyond keep their contents
(log entry 13). -/
def keyExpand {n : Nat} (nk count : Nat) (key : Bytes n) (f : SBox) (m : Byte) (w : Schedule) : Schedule :=
  (List.range count).foldl (fun w i => w.setIfInBounds i (scheduleWord nk key f m w i)) w

end Sys2Proof.Machine
end

