-- ==== Sys2Proof/Machine/Cipher.lean ====
section
/-! DEFINITION. The round pipeline and the block core (`43_block_core.md` rules R140 to R150). -/

namespace Sys2Proof.Machine

/-- The state matrix (R140): `s[r][c]` of the spec is row `r` of column `c`, held as the vector of its columns. -/
abbrev Matrix (nb : WordCount) := Vector (Bytes 4) nb.toNat

/-- A matrix given by its entries, column and row. -/
def matrixOf {nb : WordCount} (entry : Fin nb.toNat → Fin 4 → Byte) : Matrix nb :=
  Vector.ofFn fun c => Vector.ofFn fun r => entry c r

/-- `Load` (R140): `s[r][c] <- X[r + 4c]`. -/
def load {nb : WordCount} (x : Bytes (blockBytes nb)) : Matrix nb :=
  matrixOf fun c r => x[r.val + 4 * c.val]'(by unfold blockBytes; omega)

/-- `Store` (R140): `Y[r + 4c] <- s[r][c]`. -/
def store {nb : WordCount} (s : Matrix nb) : Bytes (blockBytes nb) :=
  Vector.ofFn fun k => (s[k.val / 4]'(by have := k.isLt; unfold blockBytes at this; omega))[k.val % 4]'(by omega)

/-- SubBytes with `SBF`, InvSubBytes with `SBI` (R142). -/
def subBytes {nb : WordCount} (t : SBox) (s : Matrix nb) : Matrix nb := matrixOf fun c r => lookup t (s[c])[r]

/-- `ShiftAmounts(nb)` (R143), entry `r`. -/
def shiftAmount (nb : WordCount) (r : Fin 4) : Nat :=
  match nb with
  | .four | .six => r.val
  | .eight => if r.val < 2 then r.val else r.val + 1

/-- The column `dist` columns on from column `c`, cyclically. -/
def columnOn {nb : WordCount} (c : Fin nb.toNat) (dist : Nat) : Fin nb.toNat :=
  ⟨(c.val + dist) % nb.toNat, Nat.mod_lt _ (Nat.lt_of_le_of_lt (Nat.zero_le _) c.isLt)⟩

/-- ShiftRows (R144): row `r` rotated left by `sh[r]`. -/
def shiftRows {nb : WordCount} (s : Matrix nb) : Matrix nb :=
  matrixOf fun c r => (s[columnOn c (shiftAmount nb r)])[r]

/-- InvShiftRows (R145): row `r` rotated right by `sh[r]`. -/
def invShiftRows {nb : WordCount} (s : Matrix nb) : Matrix nb :=
  matrixOf fun c r => (s[columnOn c ((nb.toNat - shiftAmount nb r) % nb.toNat)])[r]

/-- The first row of the matrix of MixColumns (R146). -/
def mixFirst : Bytes 4 := #v[0x02, 0x03, 0x01, 0x01]

/-- The first row of the matrix of InvMixColumns (R147). -/
def invMixFirst : Bytes 4 := #v[0x0E, 0x0B, 0x0D, 0x09]

/-- The circulant matrix `M[r][k] = first[(k - r) mod 4]` (R146, R147). -/
def circulant (first : Bytes 4) (r k : Fin 4) : Byte := first[k - r]

/-- Row `r` of a column multiplied by a circulant matrix under a modulus (R146, R147). -/
def mixRow (first : Bytes 4) (m : Byte) (col : Bytes 4) (r : Fin 4) : Byte :=
  fieldMul (circulant first r 0) col[0] m ^^^ fieldMul (circulant first r 1) col[1] m
    ^^^ fieldMul (circulant first r 2) col[2] m ^^^ fieldMul (circulant first r 3) col[3] m

/-- MixColumns with `mixFirst` (R146), InvMixColumns with `invMixFirst` (R147), under the modulus `m`. -/
def mixColumns {nb : WordCount} (first : Bytes 4) (m : Byte) (s : Matrix nb) : Matrix nb :=
  matrixOf fun c r => mixRow first m s[c] r

/-- AddRoundKey (R148): column `c` is XORed with schedule word `r · nb + c`. -/
def addRoundKey {nb : WordCount} (w : Schedule) (r : Nat) (s : Matrix nb) : Matrix nb :=
  matrixOf fun c row => (s[c])[row] ^^^ (wordAt w (r * nb.toNat + c.val))[row]

/-- One of the rounds 1 .. NR-1 of `EncryptBlock` (R149). -/
def encryptRound {nb : WordCount} (w : Schedule) (f : SBox) (m : Byte) (s : Matrix nb) (r : Nat) : Matrix nb :=
  addRoundKey w r (mixColumns mixFirst m (shiftRows (subBytes f s)))

/-- `EncryptBlock` (R149) with the schedule `w`, the forward table `f` and the MixColumns modulus `m`. -/
def encryptBlock (nb : WordCount) (nr : RoundCount) (w : Schedule) (f : SBox) (m : Byte) (x : Bytes (blockBytes nb)) :
    Bytes (blockBytes nb) :=
  let start := addRoundKey w 0 (load x)
  let before := (List.range' 1 (nr.toNat - 1)).foldl (encryptRound w f m) start
  store (addRoundKey w nr.toNat (shiftRows (subBytes f before)))

/-- One of the rounds NR-1 .. 1 of `DecryptBlock` (R150). -/
def decryptRound {nb : WordCount} (w : Schedule) (t : SBox) (m : Byte) (s : Matrix nb) (r : Nat) : Matrix nb :=
  subBytes t (invShiftRows (mixColumns invMixFirst m (addRoundKey w r s)))

/-- `DecryptBlock` (R150) with the schedule `w`, the inverse table `t` and the MixColumns modulus `m`. -/
def decryptBlock (nb : WordCount) (nr : RoundCount) (w : Schedule) (t : SBox) (m : Byte) (y : Bytes (blockBytes nb)) :
    Bytes (blockBytes nb) :=
  let start := subBytes t (invShiftRows (addRoundKey w nr.toNat (load y)))
  let after := (List.range' 1 (nr.toNat - 1)).reverse.foldl (decryptRound w t m) start
  store (addRoundKey w 0 after)

/-- `E(X)` with the state's `NB`, `NR`, `W`, `SBF` (R149). -/
def State.encrypt (s : State) (x : Bytes (blockBytes s.nb)) : Bytes (blockBytes s.nb) :=
  encryptBlock s.nb s.nr s.w s.sbf (roundModulus s.modulus) x

/-- `D(Y)` with the state's `NB`, `NR`, `W`, `SBI` (R150). -/
def State.decrypt (s : State) (y : Bytes (blockBytes s.nb)) : Bytes (blockBytes s.nb) :=
  decryptBlock s.nb s.nr s.w s.sbi (roundModulus s.modulus) y

/-- `DIN[0..B-1]`, the input block (R20). -/
def State.inputBlock (s : State) : Bytes (blockBytes s.nb) := s.bytes .din (blockBytes s.nb)

end Sys2Proof.Machine
end

