-- ==== Sys2Proof/Machine/BlockCommands.lean ====
section
/-! DEFINITION. The meanings of `ENCB` and `DECB` (`43_block_core.md` rules R152, R153). -/

namespace Sys2Proof.Machine

/-- The checks of `ENCB` and `DECB`, first failure first (R152, R153, R256). -/
def State.blockCheck (s : State) (len : Byte) : Option ErrorName :=
  if s.cfgValid = false then some .ordNocfg
  else if s.ksValid = false then some .ordNokey
  else if len.toNat ≠ blockBytes s.nb then some .cfgBlocksize
  else none

/-- `ENCB len` (R152). -/
def execEncb (len : Byte) (s : State) : Result :=
  match s.blockCheck len with
  | some e => .next (s.raise e)
  | none => .next ((s.setDout (s.encrypt s.inputBlock)).answer 0x00)

/-- `DECB len` (R153). -/
def execDecb (len : Byte) (s : State) : Result :=
  match s.blockCheck len with
  | some e => .next (s.raise e)
  | none => .next ((s.setDout (s.decrypt s.inputBlock)).answer 0x00)

end Sys2Proof.Machine
end

