-- ==== Sys2Proof/Machine/BufferCommands.lean ====
section
/-! DEFINITION. The meanings of `WRB`, `RDB`, `RDST`, `RST` (`45_buffer_status.md` rules R220 to R224). None needs a
configuration. -/

namespace Sys2Proof.Machine

/-- `WRB buf, idx, val` (R222). -/
def execWrb (buf idx val : Byte) (s : State) : Result :=
  match (bufferOf buf).filter Buffer.hostWrites with
  | none => .next (s.raise .operand)
  | some b => if idx.toNat < bufferSize then .next ((s.setByte b idx.toNat val).answer 0x00) else .next (s.raise .operand)

/-- `RDB buf, idx` (R221). -/
def execRdb (buf idx : Byte) (s : State) : Result :=
  match (bufferOf buf).filter Buffer.hostReads with
  | none => .next (s.raise .operand)
  | some b => if idx.toNat < bufferSize then .next (s.answer (s.byte b idx.toNat)) else .next (s.raise .operand)

/-- `StatusByte(sel)` (R223), none for `sel` > 8. -/
def State.statusByte (s : State) (sel : Byte) : Option Byte :=
  match sel.toNat with
  | 0 => some s.flags
  | 1 => some s.nk.byte
  | 2 => some s.nb.byte
  | 3 => some s.nr.byte
  | 4 => some s.modulus
  | 5 => some s.mode
  | 6 => some s.padsel
  | 7 => some s.ivlen
  | 8 => some s.eflags
  | _ => none

/-- `RDST sel` (R223). -/
def execRdst (sel : Byte) (s : State) : Result :=
  match s.statusByte sel with
  | none => .next (s.raise .operand)
  | some v => .next (s.answer v)

/-- `RST` (R224): the reset state, the response `0x0000`. -/
def execRst (s : State) : Result := .next (s.toReset.answer 0x00)

end Sys2Proof.Machine
end

