-- ==== Sys2Proof/Machine/FieldCommands.lean ====
section
/-! DEFINITION. The meanings of `GFADD`, `GFMUL`, `GFINV`, `GFIRR`, `GFIRRN` (`40_field_arithmetic.md` rules R88 to R93).
None needs a configuration. -/

namespace Sys2Proof.Machine

/-- `GFADD a, b` (R88). -/
def execGfadd (a b : Byte) (s : State) : Result := .next (s.answer (fieldAdd a b))

/-- `GFMUL a, b, m` (R89, R93): the modulus is the immediate, not `MOD`. -/
def execGfmul (a b m : Byte) (s : State) : Result := .next (s.answer (fieldMul a b m))

/-- `GFINV a, m` (R90, R93). -/
def execGfinv (a m : Byte) (s : State) : Result := .next (s.answer (fieldInv a m))

/-- `GFIRR p` (R91). -/
def execGfirr (p : Byte) (s : State) : Result := .next (s.answer (if isIrreducible p then 0x01 else 0x00))

/-- `GFIRRN k` (R92). -/
def execGfirrn (k : Byte) (s : State) : Result :=
  match irreducibleList[k.toNat]? with
  | none => .next (s.raise .operand)
  | some p => .next (s.answer p)

end Sys2Proof.Machine
end

