-- ==== Sys2Proof/Machine/KeyCommands.lean ====
section
/-! DEFINITION. The meanings of `KEXP` and `RCON` (`42_key_expansion.md` rules R125, R126). -/

namespace Sys2Proof.Machine

/-- The schedule `KEXP` writes (R125): `KeyExpand(KEYBUF[0 .. 4·NK-1], NK, NB, SBF)` over `W[0 .. NB·(NR+1)-1]`. -/
def State.expandKey (s : State) : Schedule :=
  keyExpand s.nk.toNat (scheduleWords s.nb s.nr) (s.bytes .keybuf (keyBytes s.nk)) s.sbf (roundModulus s.modulus) s.w

/-- `KEXP len` (R125): configured, size, modulus, in this order. -/
def execKexp (len : Byte) (s : State) : Result :=
  if s.cfgValid = false then .next (s.raise .ordNocfg)
  else if len.toNat ≠ keyBytes s.nk then .next (s.raise .cfgKeysize)
  else
    match s.ensureSbox with
    | .error e => .next (s.raise e)
    | .ok t => .next (State.answer (t.nr.byte + 1) { t with w := t.expandKey, ksValid := true, run := false })

/-- `RCON j` (R126): the modulus is the constant `0x1B` (R120). -/
def execRcon (j : Byte) (s : State) : Result :=
  if j = 0 then .next (s.raise .operand) else .next (s.answer (rcon canonicalModulus j.toNat))

end Sys2Proof.Machine
end

