-- ==== Sys2Proof/Machine/Chaining.lean ====
section
/-! DEFINITION. The cipher-mode state machine (`44_modes_padding.md` rules R174, R176 to R182, R190, R193). -/

namespace Sys2Proof.Machine

/-- The feedback pair: `FB0[0..B-1]` and `FB1[0..B-1]` (R25). -/
abbrev Feedback (n : Nat) := Bytes n × Bytes n

/-- The index in the IV of the first byte of the CTR counter (R190, `CTR_LAYOUT`). -/
def counterStart (n : Nat) : Nat :=
  match Config.counterPlace with
  | .lastEight => n - 8
  | .firstEight => 0

/-- The power of 256 that byte `k` of the counter weighs (R190, `CTR_LAYOUT`). -/
def counterWeight (k : Nat) : Nat :=
  match Config.counterOrder with
  | .bigEndian => 7 - k
  | .littleEndian => k

/-- The counter read from the IV (R190): `c`. -/
def counterOf {n : Nat} (iv : Bytes n) : BitVec 64 :=
  BitVec.ofNat 64 ((List.range 8).map fun k => (byteAt iv (counterStart n + k)).toNat * 256 ^ counterWeight k).sum

/-- Byte `k` of the counter written back into 8 bytes (R190). -/
def counterByte (c : BitVec 64) (k : Nat) : Byte := c.extractLsb' (8 * counterWeight k) 8

/-- `CtrBlock(iv, i)` (R190): the counter bytes replaced by counter plus block index, modulo 2^64. -/
def ctrBlock {n : Nat} (iv : Bytes n) (i : BitVec 64) : Bytes n :=
  Vector.ofFn fun j =>
    if counterStart n ≤ j.val ∧ j.val < counterStart n + 8 then counterByte (counterOf iv + i) (j.val - counterStart n)
    else iv[j]

/-- `Seed(iv, i)` (R193): the last 4 bytes big-endian, XOR the block index modulo 2^32. -/
def deltaSeed {n : Nat} (iv : Bytes n) (i : BitVec 64) : BitVec 32 :=
  BitVec.ofNat 32 ((List.range 4).map fun k => (byteAt iv (n - 4 + k)).toNat * 256 ^ (3 - k)).sum ^^^ i.setWidth 32

/-- `DeltaGen(seed, n)` (R193; log entry 5). -/
def deltaGen (seed : BitVec 32) (n : Nat) : Bytes n := Vector.ofFn fun k => Config.deltaByte seed n k.val

/-- ECB (R176). -/
def stepEcb {n : Nat} (dec : Bool) (e d : Bytes n → Bytes n) (x : Bytes n) (fb : Feedback n) : Bytes n × Feedback n :=
  (if dec then d x else e x, fb)

/-- CBC (R177). -/
def stepCbc {n : Nat} (dec : Bool) (e d : Bytes n → Bytes n) (x : Bytes n) (fb : Feedback n) : Bytes n × Feedback n :=
  if dec then (xorBytes (d x) fb.1, (x, fb.2))
  else
    let y := e (xorBytes x fb.1)
    (y, (y, fb.2))

/-- PCBC (R178): `FB0` the previous plaintext, `FB1` the previous ciphertext. -/
def stepPcbc {n : Nat} (dec : Bool) (e d : Bytes n → Bytes n) (x : Bytes n) (fb : Feedback n) : Bytes n × Feedback n :=
  if dec then
    let y := xorBytes (xorBytes (d x) fb.1) fb.2
    (y, (y, x))
  else
    let y := e (xorBytes (xorBytes x fb.1) fb.2)
    (y, (x, y))

/-- CFB (R179): the cipher runs in the encrypt direction both ways. -/
def stepCfb {n : Nat} (dec : Bool) (e : Bytes n → Bytes n) (x : Bytes n) (fb : Feedback n) : Bytes n × Feedback n :=
  let y := xorBytes x (e fb.1)
  (y, (if dec then x else y, fb.2))

/-- OFB (R180). -/
def stepOfb {n : Nat} (e : Bytes n → Bytes n) (x : Bytes n) (fb : Feedback n) : Bytes n × Feedback n :=
  let k := e fb.1
  (xorBytes x k, (k, fb.2))

/-- CTR (R181). -/
def stepCtr {n : Nat} (e : Bytes n → Bytes n) (x : Bytes n) (fb : Feedback n) (i : BitVec 64) : Bytes n × Feedback n :=
  (xorBytes x (e (ctrBlock fb.1 i)), fb)

/-- RandomDelta (R182). -/
def stepDelta {n : Nat} (dec : Bool) (e d : Bytes n → Bytes n) (x : Bytes n) (fb : Feedback n) (i : BitVec 64) :
    Bytes n × Feedback n :=
  let delta := deltaGen (deltaSeed fb.1 i) n
  (if dec then xorBytes (d x) delta else e (xorBytes x delta), fb)

/-- `ModeStep` (R175): one block `x` through a mode; `dec` is `DIR = 1`, `e` and `d` are `E` and `D`, `i` is `BLKCNT`. -/
def modeStep {n : Nat} (mode : Mode) (dec : Bool) (e d : Bytes n → Bytes n) (x : Bytes n) (fb : Feedback n)
    (i : BitVec 64) : Bytes n × Feedback n :=
  match mode with
  | .ecb => stepEcb dec e d x fb
  | .cbc => stepCbc dec e d x fb
  | .pcbc => stepPcbc dec e d x fb
  | .cfb => stepCfb dec e x fb
  | .ofb => stepOfb e x fb
  | .ctr => stepCtr e x fb i
  | .randomDelta => stepDelta dec e d x fb i

/-- The feedback pair of the state (R25): only bytes 0..B-1 are meaningful. -/
def State.feedback (s : State) : Feedback (blockBytes s.nb) :=
  (firstBytes s.fb0 (blockBytes s.nb), firstBytes s.fb1 (blockBytes s.nb))

/-- `InitFeedback()` (R174), by mode. -/
def State.initFeedback (s : State) (mode : Mode) : State :=
  let iv := s.bytes .ivbuf (blockBytes s.nb)
  match mode with
  | .ecb => s
  | .cbc | .cfb | .ofb | .ctr | .randomDelta => { s with fb0 := fillRegister iv }
  | .pcbc => { s with fb0 := fillRegister (zeroBytes (blockBytes s.nb)), fb1 := fillRegister iv }

/-- The keystream block of `MPART` (R184): `E(CtrBlock(FB0, BLKCNT))` in CTR, else `E(FB0)`. -/
def State.tailKeystream (s : State) (mode : Mode) : Bytes (blockBytes s.nb) :=
  match mode with
  | .ctr => s.encrypt (ctrBlock s.feedback.1 s.blkcnt)
  | _ => s.encrypt s.feedback.1

end Sys2Proof.Machine
end

