-- ==== Sys2Proof/Machine/Padding.lean ====
section
/-! DEFINITION. Padding and its removal (`44_modes_padding.md` rules R196 to R199, R201 to R204). -/

namespace Sys2Proof.Machine

/-- `PadBytes(PADSEL, L)` for a pad length `len` ≥ 1 (R196 to R199). For ISO10126 the bytes before the last are the free
filler of draw number `draw` (log entry 4). -/
def padBytes (p : Padding) (len draw : Nat) : List Byte :=
  match p with
  | .zeros => List.replicate len 0x00
  | .pkcs7 => List.replicate len (BitVec.ofNat 8 len)
  | .ansix923 => List.replicate (len - 1) 0x00 ++ [BitVec.ofNat 8 len]
  | .iso10126 => (List.range (len - 1)).map (Config.fillerByte draw) ++ [BitVec.ofNat 8 len]

/-- How many fillers a padding draws (R199). -/
def drawsOf : Padding → Nat
  | .iso10126 => 1
  | .zeros | .pkcs7 | .ansix923 => 0

/-- The length byte `L` of a block is in [1, B] (R202 to R204). -/
def padLengthInRange (len size : Nat) : Bool := 1 ≤ len && len ≤ size

/-- Every byte of a block with an index from `lo` to `hi` - 1 is `v`. -/
def allBytes (block : Nat → Byte) (lo hi : Nat) (v : Byte) : Bool :=
  (List.range (hi - lo)).all fun k => block (lo + k) == v

/-- `PadLength(PADSEL, DOUT[0..B-1])` for B = `size` (R201 to R204), or none where the rule raises `E_PAD`. -/
def padLength (p : Padding) (size : Nat) (block : Nat → Byte) : Option Nat :=
  let last := block (size - 1)
  let len := last.toNat
  match p with
  | .zeros => some 0
  | .pkcs7 => if padLengthInRange len size && allBytes block (size - len) size last then some len else none
  | .ansix923 => if padLengthInRange len size && allBytes block (size - len) (size - 1) 0x00 then some len else none
  | .iso10126 => if padLengthInRange len size then some len else none

end Sys2Proof.Machine
end

