-- ==== Sys2Proof/Machine/ModeCommands.lean ====
section
/-! DEFINITION. The meanings of `CTXINIT`, `START`, `MBLK`, `MPART`, `PAD`, `UNPAD` (`44_modes_padding.md` rules R172,
R173, R175, R184, R195, R200). -/

namespace Sys2Proof.Machine

/-- `CTXINIT mode, pad, ivlen` (R172): the selectors are stored unchecked. -/
def execCtxinit (mode pad ivlen : Byte) (s : State) : Result :=
  if s.cfgValid = false then .next (s.raise .ordNocfg)
  else if mode ≠ 0 ∧ ivlen = 0 then .next (s.raise .cfgNoiv)
  else if ivlen ≠ 0 ∧ ivlen.toNat ≠ blockBytes s.nb then .next (s.raise .cfgIvsize)
  else .next (State.answer 0x00 { s with mode := mode, padsel := pad, ivlen := ivlen, ivPresent := decide (ivlen ≠ 0),
                                         ctxValid := true, run := false })

/-- `START dir` (R173). -/
def execStart (dir : Byte) (s : State) : Result :=
  if s.cfgValid = false then .next (s.raise .ordNocfg)
  else if s.ctxValid = false then .next (s.raise .ordNoctx)
  else if s.ksValid = false then .next (s.raise .ordNokey)
  else
    match modeOf s.mode with
    | none => .next (s.raise .cfgSelector)
    | some mode =>
      if dir.toNat > 1 then .next (s.raise .operand)
      else .next (State.answer 0x00 { s.initFeedback mode with dir := decide (dir.toNat = 1), blkcnt := 0, run := true })

/-- The state after one block through a mode (R175). -/
def State.afterBlock (s : State) (mode : Mode) : State :=
  let r := modeStep mode s.dir s.encrypt s.decrypt s.inputBlock s.feedback s.blkcnt
  { s.setDout r.1 with fb0 := setFirstBytes s.fb0 r.2.1, fb1 := setFirstBytes s.fb1 r.2.2, blkcnt := s.blkcnt + 1 }

/-- `MBLK len` (R175). `RUN = 1` implies a recognised mode (R28); where it does not, no rule gives an effect. -/
def execMblk (len : Byte) (s : State) : Result :=
  if s.cfgValid = false then .next (s.raise .ordNocfg)
  else if s.run = false then .next (s.raise .ordNoctx)
  else if len.toNat ≠ blockBytes s.nb then .next (s.raise .cfgBlocksize)
  else
    match modeOf s.mode with
    | none => .fault .openCallWithoutMode
    | some mode => .next ((s.afterBlock mode).answer 0x00)

/-- The first `n` bytes of the last, short block (R184): `DIN[0..n-1] ^ K[0..n-1]`. -/
def State.tailBytes (s : State) (mode : Mode) (n : Nat) : Bytes n :=
  xorBytes (s.bytes .din n) (Vector.ofFn fun i => byteAt (s.tailKeystream mode) i.val)

/-- `MPART n` (R184): the modes without a keystream, and an unrecognised one, raise `E_CFG_BLOCKSIZE`. -/
def execMpart (n : Byte) (s : State) : Result :=
  if s.cfgValid = false then .next (s.raise .ordNocfg)
  else if s.run = false then .next (s.raise .ordNoctx)
  else
    match (modeOf s.mode).filter Mode.hasKeystream with
    | none => .next (s.raise .cfgBlocksize)
    | some mode =>
      if n.toNat < 1 ∨ n.toNat ≥ blockBytes s.nb then .next (s.raise .operand)
      else .next (State.answer n { s.setDout (s.tailBytes mode n.toNat) with blkcnt := s.blkcnt + 1, run := false })

/-- The checks that begin `PAD` and `UNPAD` (R195, R200): configured, context, recognised mode. -/
def State.paddingMode (s : State) : Except ErrorName Mode :=
  if s.cfgValid = false then .error .ordNocfg
  else if s.ctxValid = false then .error .ordNoctx
  else
    match modeOf s.mode with
    | none => .error .cfgSelector
    | some mode => .ok mode

/-- The state after padding the block from byte `n` on (R195): `DIN[n .. B-1] <- PadBytes(PADSEL, B - n)`. -/
def State.padded (s : State) (p : Padding) (n : Nat) : State :=
  { s.setBytes .din n (padBytes p (blockBytes s.nb - n) s.draws) with draws := s.draws + drawsOf p }

/-- `PAD n` (R195): in a stream-style mode a checked no-op. -/
def execPad (n : Byte) (s : State) : Result :=
  match s.paddingMode with
  | .error e => .next (s.raise e)
  | .ok mode =>
    if mode.streamStyle then
      if n.toNat > blockBytes s.nb then .next (s.raise .operand) else .next (s.answer n)
    else
      match paddingOf s.padsel with
      | none => .next (s.raise .cfgSelector)
      | some p =>
        if n.toNat ≥ blockBytes s.nb then .next (s.raise .operand)
        else .next ((s.padded p n.toNat).answer (BitVec.ofNat 8 (blockBytes s.nb)))

/-- `UNPAD` (R200): in a stream-style mode it returns B. -/
def execUnpad (s : State) : Result :=
  match s.paddingMode with
  | .error e => .next (s.raise e)
  | .ok mode =>
    if mode.streamStyle then .next (s.answer (BitVec.ofNat 8 (blockBytes s.nb)))
    else
      match paddingOf s.padsel with
      | none => .next (s.raise .cfgSelector)
      | some p =>
        match padLength p (blockBytes s.nb) (s.byte .dout) with
        | none => .next (s.raise .pad)
        | some len => .next (s.answer (BitVec.ofNat 8 (blockBytes s.nb - len)))

end Sys2Proof.Machine
end

