-- ==== Sys2Proof/Machine/SboxCommands.lean ====
section
/-! DEFINITION. The meanings of `CFG`, `SBGEN`, `SBFWD`, `SBINV` (`41_sbox.md` rules R101, R106 to R108). -/

namespace Sys2Proof.Machine

/-- The effect of a successful `CFG` (R101): a new cipher instance, nothing carried over but the buffers, the feedback
registers and the selectors. -/
def State.configure (s : State) (nk nb : WordCount) (m : Byte) : State :=
  { s with nk := nk, nb := nb, modulus := m, nr := rounds nk nb, cfgValid := true,
           sbValid := false, ksValid := false, ctxValid := false, run := false }

/-- `CFG nk, nb, m` (R101): the modulus is not checked here. -/
def execCfg (nk nb m : Byte) (s : State) : Result :=
  match wordCount nk, wordCount nb with
  | some k, some b => .next ((s.configure k b m).answer (rounds k b).byte)
  | _, _ => .next (s.raise .cfgParam)

/-- The checks and the lazy build that begin `SBGEN`, `SBFWD`, `SBINV` (R106 to R108): configured, then `EnsureSbox()`. -/
def State.withSbox (s : State) : Except ErrorName State :=
  if s.cfgValid then s.ensureSbox else .error .ordNocfg

/-- `SBGEN` (R106). -/
def execSbgen (s : State) : Result :=
  match s.withSbox with
  | .error e => .next (s.raise e)
  | .ok t => .next (t.answer 0x00)

/-- `SBFWD x` (R107). -/
def execSbfwd (x : Byte) (s : State) : Result :=
  match s.withSbox with
  | .error e => .next (s.raise e)
  | .ok t => .next (t.answer (lookup t.sbf x))

/-- `SBINV x` (R108). -/
def execSbinv (x : Byte) (s : State) : Result :=
  match s.withSbox with
  | .error e => .next (s.raise e)
  | .ok t => .next (t.answer (lookup t.sbi x))

end Sys2Proof.Machine
end

