-- ==== Sys2Proof/Machine/Dispatch.lean ====
section
/-! DEFINITION. Dispatch: one arm per command, each one call of its meaning. -/

namespace Sys2Proof.Machine

/-- The meaning of a decoded command (`30_encoding.md` rule R66, steps 3 to 5). -/
def exec (i : Instr) (s : State) : Host.Outcome State Fault Refusal :=
  match i with
  | .gfadd a b => Sys2Proof.Machine.execGfadd a b s
  | .gfmul a b m => Sys2Proof.Machine.execGfmul a b m s
  | .gfinv a m => Sys2Proof.Machine.execGfinv a m s
  | .gfirr p => Sys2Proof.Machine.execGfirr p s
  | .gfirrn k => Sys2Proof.Machine.execGfirrn k s
  | .cfg nk nb m => Sys2Proof.Machine.execCfg nk nb m s
  | .sbgen => Sys2Proof.Machine.execSbgen s
  | .sbfwd x => Sys2Proof.Machine.execSbfwd x s
  | .sbinv x => Sys2Proof.Machine.execSbinv x s
  | .kexp len => Sys2Proof.Machine.execKexp len s
  | .rcon j => Sys2Proof.Machine.execRcon j s
  | .encb len => Sys2Proof.Machine.execEncb len s
  | .decb len => Sys2Proof.Machine.execDecb len s
  | .ctxinit mode pad ivlen => Sys2Proof.Machine.execCtxinit mode pad ivlen s
  | .start dir => Sys2Proof.Machine.execStart dir s
  | .mblk len => Sys2Proof.Machine.execMblk len s
  | .mpart n => Sys2Proof.Machine.execMpart n s
  | .pad n => Sys2Proof.Machine.execPad n s
  | .unpad => Sys2Proof.Machine.execUnpad s
  | .wrb buf idx val => Sys2Proof.Machine.execWrb buf idx val s
  | .rdb buf idx => Sys2Proof.Machine.execRdb buf idx s
  | .rdst sel => Sys2Proof.Machine.execRdst sel s
  | .rst => Sys2Proof.Machine.execRst s

end Sys2Proof.Machine
end

