-- ==== Sys2Proof/Machine/Step.lean ====
section
/-! DEFINITION. One step: the host's next act, taken off the list, runs to completion (`10_state.md` rule R11,
`30_encoding.md` rule R66). The three outcomes are those of `Host.Outcome`. -/

namespace Sys2Proof.Machine

/-- Run one command word: an illegal word raises `E_ILLEGAL` (R63, R64, R66), a command runs. -/
def runWord (w : CommandWord) (s : State) : Result :=
  match decode w with
  | .error _ => .next (s.raise .illegal)
  | .ok i => exec i s

/-- One step. With nothing to do for the host the unit waits unchanged (log entry 2). -/
def step (s : State) : Host.Outcome State Fault Refusal :=
  match s.fetch with
  | .idle => .next s
  | .hardwareReset t => .next t.toReset
  | .command w t => runWord w t

/-- `s` with a command word put first among what the host has yet to do, where `step` takes its next one
(log entries 1, 16). -/
def State.withFetchWord (s : State) (nbits w : Nat) : State :=
  { s with host := .command (tableWord nbits w) :: s.host }

end Sys2Proof.Machine
end

