-- ==== Sys2Proof/Safety.lean ====
section
/-! DEFINITION. The terms claims use: the state invariant (`10_state.md` rule R28 and what R15, R17, R19, R41, R251 say of
every reachable state), what raising an error leaves, the check order of R256 and the error table of R251 written again
from the spec's tables and apart from the meanings, the whole-message use of a mode (R210), and `Affine`, the row shifts and the
rows of the MixColumns matrices written out (R100, R143, R146, R147). -/

namespace Sys2Proof.Machine

/-- R252, spelled out: the command ends with this code and changes `ERR`, `RES` and the kind's bit of `EFLAGS` alone. -/
def Raises (i : Instr) (s : State) (code : Byte) : Prop :=
  exec i s = .next { s with err := code, res := 0x00, eflags := s.eflags ||| ((0x01 : Byte) <<< ((code >>> 4).toNat - 1)) }

/-- The value of the named fields of R28: the valid flags imply one another, `NR` is `Rounds(NK, NB)`, the context is legal. -/
abbrev State.FlagsOrdered (s : State) : Prop :=
  (s.sbValid = true → s.cfgValid = true) ∧ (s.ksValid = true → s.sbValid = true) ∧
  (s.ctxValid = true → s.cfgValid = true) ∧
  (s.run = true → s.ctxValid = true ∧ s.ksValid = true ∧ s.mode.toNat ≤ 6) ∧
  s.nr = rounds s.nk s.nb ∧ (s.ivPresent = true ↔ s.ivlen ≠ 0) ∧
  (s.ctxValid = true →
    (s.ivlen = 0 ∨ s.ivlen.toNat = blockBytes s.nb) ∧ (s.mode = 0 ∨ s.ivlen.toNat = blockBytes s.nb))

/-- The codes `ERR` can hold (R251, "No other value of `ERR` occurs"). -/
def errCodes : List Byte := [0x00, 0x10, 0x11, 0x12, 0x13, 0x14, 0x15, 0x16, 0x20, 0x21, 0x22, 0x30, 0x40, 0x41]

/-- The status registers: a legal code in `ERR` (R251), `RES = 0` on every error (R65), bits 7..4 of `EFLAGS` 0 (R15), and
the bit of the last error's kind set, since it is sticky (R254). -/
abbrev State.StatusLegal (s : State) : Prop :=
  s.err ∈ errCodes ∧ s.eflags.toNat < 16 ∧
  (s.err ≠ 0x00 → s.res = 0x00 ∧ s.eflags.getLsbD ((s.err >>> 4).toNat - 1) = true)

/-- R17: when `SB_VALID = 1`, the modulus is irreducible and the tables are those of the configured modulus. -/
abbrev State.TablesCurrent (s : State) : Prop :=
  s.sbValid = true →
    isIrreducible s.modulus = true ∧ s.sbf = forwardTable s.modulus ∧ s.sbi = inverseTable s.sbf

/-- R19, R123: when `KS_VALID = 1`, the words of the schedule are those of the expansion of some key. -/
def State.ScheduleCurrent (s : State) : Prop :=
  s.ksValid = true →
    ∃ key : Bytes (keyBytes s.nk), ∀ i, i < scheduleWords s.nb s.nr →
      wordAt s.w i = scheduleWord s.nk.toNat key s.sbf (roundModulus s.modulus) s.w i

/-- The invariant of the machine. -/
def State.Inv (s : State) : Prop :=
  s.FlagsOrdered ∧ s.StatusLegal ∧ s.TablesCurrent ∧ s.ScheduleCurrent ∧ s.mem.wf

/-- A safe outcome: the machine goes on. -/
def Goes (r : Result) : Prop := ∃ t, r = .next t

/-- A byte is a legal word count (R101). -/
def legalCount (b : Byte) : Bool := b == 4 || b == 6 || b == 8

/-- Malformed padding (R202 to R204), for a padding selector other than Zeros: the length byte outside [1, B], or a fill
byte that differs. -/
def malformed (padsel : Byte) (size : Nat) (block : Nat → Byte) : Bool :=
  let len := (block (size - 1)).toNat
  padsel != 0 &&
    (len < 1 || size < len ||
      (padsel == 1 && (List.range size).any fun k => size - len ≤ k && block k != block (size - 1)) ||
      (padsel == 2 && (List.range (size - 1)).any fun k => size - len ≤ k && block k != 0x00))

/-- The first failing check of each command, in the order of the table of R256, as its code; 0 where every check passes. -/
def firstFailure (i : Instr) (s : State) : Byte :=
  let size := blockBytes s.nb
  let sboxFails : Bool := !s.sbValid && !isIrreducible s.modulus
  match i with
  | .gfadd _ _ | .gfmul _ _ _ | .gfinv _ _ | .gfirr _ | .rst => 0x00
  | .gfirrn k => if 30 ≤ k.toNat then 0x41 else 0x00
  | .cfg nk nb _ => if legalCount nk && legalCount nb then 0x00 else 0x16
  | .sbgen | .sbfwd _ | .sbinv _ => if !s.cfgValid then 0x22 else if sboxFails then 0x13 else 0x00
  | .kexp len =>
    if !s.cfgValid then 0x22 else if len.toNat ≠ 4 * s.nk.toNat then 0x10 else if sboxFails then 0x13 else 0x00
  | .rcon j => if j = 0 then 0x41 else 0x00
  | .encb len | .decb len =>
    if !s.cfgValid then 0x22 else if !s.ksValid then 0x20 else if len.toNat ≠ size then 0x11 else 0x00
  | .ctxinit mode _ ivlen =>
    if !s.cfgValid then 0x22 else if mode ≠ 0 ∧ ivlen = 0 then 0x14
    else if ¬(ivlen.toNat = 0 ∨ ivlen.toNat = size) then 0x12 else 0x00
  | .start dir =>
    if !s.cfgValid then 0x22 else if !s.ctxValid then 0x21 else if !s.ksValid then 0x20
    else if 6 < s.mode.toNat then 0x15 else if 1 < dir.toNat then 0x41 else 0x00
  | .mblk len => if !s.cfgValid then 0x22 else if !s.run then 0x21 else if len.toNat ≠ size then 0x11 else 0x00
  | .mpart n =>
    if !s.cfgValid then 0x22 else if !s.run then 0x21
    else if s.mode.toNat < 3 ∨ 5 < s.mode.toNat then 0x11
    else if n.toNat = 0 ∨ size ≤ n.toNat then 0x41 else 0x00
  | .pad n =>
    if !s.cfgValid then 0x22 else if !s.ctxValid then 0x21 else if 6 < s.mode.toNat then 0x15
    else if 3 ≤ s.mode.toNat then (if size < n.toNat then 0x41 else 0x00)
    else if 3 < s.padsel.toNat then 0x15 else if size ≤ n.toNat then 0x41 else 0x00
  | .unpad =>
    if !s.cfgValid then 0x22 else if !s.ctxValid then 0x21 else if 6 < s.mode.toNat then 0x15
    else if 3 ≤ s.mode.toNat then 0x00
    else if 3 < s.padsel.toNat then 0x15 else if malformed s.padsel size (s.byte .dout) then 0x30 else 0x00
  | .wrb buf idx _ => if 2 < buf.toNat ∨ 31 < idx.toNat then 0x41 else 0x00
  | .rdb buf idx => if ¬(buf.toNat = 2 ∨ buf.toNat = 3) ∨ 31 < idx.toNat then 0x41 else 0x00
  | .rdst sel => if 8 < sel.toNat then 0x41 else 0x00

/-- The column "raised by" of R251: the codes each command may answer with, `0x00` among them (`0x40` comes of a word that
is no command). -/
def mayAnswer : Instr → List Byte
  | .gfadd _ _ | .gfmul _ _ _ | .gfinv _ _ | .gfirr _ | .rst => [0x00]
  | .gfirrn _ | .rcon _ | .wrb _ _ _ | .rdb _ _ | .rdst _ => [0x00, 0x41]
  | .cfg _ _ _ => [0x00, 0x16]
  | .sbgen | .sbfwd _ | .sbinv _ => [0x00, 0x13, 0x22]
  | .kexp _ => [0x00, 0x10, 0x13, 0x22]
  | .encb _ | .decb _ => [0x00, 0x11, 0x20, 0x22]
  | .ctxinit _ _ _ => [0x00, 0x12, 0x14, 0x22]
  | .start _ => [0x00, 0x15, 0x20, 0x21, 0x22, 0x41]
  | .mblk _ => [0x00, 0x11, 0x21, 0x22]
  | .mpart _ => [0x00, 0x11, 0x21, 0x22, 0x41]
  | .pad _ => [0x00, 0x15, 0x21, 0x22, 0x41]
  | .unpad => [0x00, 0x15, 0x21, 0x22, 0x30]

/-- The carry-less product of two polynomials over GF(2), in 16 bits (R9, R82). -/
def carryless (a b : BitVec 16) : BitVec 16 :=
  (List.range 16).foldl (fun acc i => if b.getLsbD i then acc ^^^ (a <<< i) else acc) 0

/-- A message of whole blocks through a mode, block after block with the feedback carried on (R175, R206 to R209); `i` is
the index of the first block. The result is the output blocks and the feedback after the last. -/
def modeRun {n : Nat} (mode : Mode) (dec : Bool) (e d : Bytes n → Bytes n) :
    List (Bytes n) → Feedback n → BitVec 64 → List (Bytes n) × Feedback n
  | [], fb, _ => ([], fb)
  | x :: rest, fb, i =>
    let r := modeStep mode dec e d x fb i
    let q := modeRun mode dec e d rest r.2 (i + 1)
    (r.1 :: q.1, q.2)

/-- The rule of each mode (R176 to R182) as a relation between a block `x`, the feedback before it, the output `y` and the
feedback after it; `dec` is `DIR = 1`, `i` is `BLKCNT`. -/
def ModeRule {n : Nat} (mode : Mode) (dec : Bool) (e d : Bytes n → Bytes n) (i : BitVec 64) (x f0 f1 y g0 g1 : Bytes n) : Prop :=
  match mode, dec with
  | .ecb, false => y = e x ∧ g0 = f0 ∧ g1 = f1
  | .ecb, true => y = d x ∧ g0 = f0 ∧ g1 = f1
  | .cbc, false => y = e (xorBytes x f0) ∧ g0 = y ∧ g1 = f1
  | .cbc, true => y = xorBytes (d x) f0 ∧ g0 = x ∧ g1 = f1
  | .pcbc, false => y = e (xorBytes (xorBytes x f0) f1) ∧ g0 = x ∧ g1 = y
  | .pcbc, true => y = xorBytes (xorBytes (d x) f0) f1 ∧ g0 = y ∧ g1 = x
  | .cfb, false => y = xorBytes x (e f0) ∧ g0 = y ∧ g1 = f1
  | .cfb, true => y = xorBytes x (e f0) ∧ g0 = x ∧ g1 = f1
  | .ofb, _ => y = xorBytes x (e f0) ∧ g0 = e f0 ∧ g1 = f1
  | .ctr, _ => y = xorBytes x (e (ctrBlock f0 i)) ∧ g0 = f0 ∧ g1 = f1
  | .randomDelta, false => y = e (xorBytes x (deltaGen (deltaSeed f0 i) n)) ∧ g0 = f0 ∧ g1 = f1
  | .randomDelta, true => y = xorBytes (d x) (deltaGen (deltaSeed f0 i) n) ∧ g0 = f0 ∧ g1 = f1

/-- Bit `i` of `Affine(x)` (R100), written out: bit `i` of `rotl8(x, n)` is bit `i - n` modulo 8 of `x`. -/
def affineBit (x : Byte) (i : Nat) : Bool :=
  x.getLsbD i ^^ x.getLsbD ((i + 7) % 8) ^^ x.getLsbD ((i + 6) % 8) ^^ x.getLsbD ((i + 5) % 8)
    ^^ x.getLsbD ((i + 4) % 8) ^^ (0x63 : Byte).getLsbD i

/-- The table of R143, written out: `sh[r]` for a block word count. -/
def rowShift : WordCount → Nat → Nat
  | .four, r => [0, 1, 2, 3].getD r 0
  | .six, r => [0, 1, 2, 3].getD r 0
  | .eight, r => [0, 1, 3, 4].getD r 0

/-- `s[r][c]` of the state matrix (R140), row first as the spec writes it; 0 outside the matrix. -/
def cell {nb : WordCount} (s : Matrix nb) (r c : Nat) : Byte := byteAt (s[c]?.getD (zeroBytes 4)) r

/-- A row of four coefficients times a column `v` under the modulus `0x1B` (R146, R147). -/
def rowTimes (m0 m1 m2 m3 : Byte) (v : Nat → Byte) : Byte :=
  fieldMul m0 (v 0) 0x1B ^^^ fieldMul m1 (v 1) 0x1B ^^^ fieldMul m2 (v 2) 0x1B ^^^ fieldMul m3 (v 3) 0x1B

/-- Row `r` of the matrix of MixColumns, printed in R146, times a column. -/
def mixedByte (r : Nat) (v : Nat → Byte) : Byte :=
  match r with
  | 0 => rowTimes 0x02 0x03 0x01 0x01 v
  | 1 => rowTimes 0x01 0x02 0x03 0x01 v
  | 2 => rowTimes 0x01 0x01 0x02 0x03 v
  | _ => rowTimes 0x03 0x01 0x01 0x02 v

/-- Row `r` of the matrix of InvMixColumns, printed in R147, times a column. -/
def unmixedByte (r : Nat) (v : Nat → Byte) : Byte :=
  match r with
  | 0 => rowTimes 0x0E 0x0B 0x0D 0x09 v
  | 1 => rowTimes 0x09 0x0E 0x0B 0x0D v
  | 2 => rowTimes 0x0D 0x09 0x0E 0x0B v
  | _ => rowTimes 0x0B 0x0D 0x09 0x0E v

/-- `K[r + 4c]` of a round key (R122, R148): byte `r` of schedule word `round · NB + c`. -/
def State.roundKeyByte (s : State) (round r c : Nat) : Byte := byteAt (wordAt s.w (round * s.nb.toNat + c)) r

/-- Two states that differ at most in the bytes of `KEYBUF`. -/
def SameButKeybuf (s t : State) : Prop :=
  t = { s with mem := t.mem } ∧ ∀ a, bufferSize ≤ a → t.mem.read a = s.mem.read a

end Sys2Proof.Machine
end

