-- ==== Sys2Proof/Certificates/Slice0/Obligations.lean ====
section
/-! DEFINITION. The statements for the provers, from the numbered rules of spec/. A result statement gives the whole next
state, so it is the completion statement and the frame of its command at once: what the equation does not write keeps its
value, all of memory included. -/

open Sys2Proof Sys2Proof.Machine

/-! Encoding -/

/-- R60, R61, R62, R67, R68: the word the encoder writes for a command decodes to that command, every operand at every value. -/
def Obligations.DecodeOfEncodeIsTheCommand : Prop := ∀ i : Instr, decode (encode i) = .ok i

/-- R62, R63: a word that decodes to a command is the one word of that command: no bit of it is ignored. -/
def Obligations.EncodeOfDecodeIsTheWord : Prop := ∀ (w : CommandWord) (i : Instr), decode w = .ok i → encode i = w

/-- R62: for each row (match, mask) of the table, `(word & mask) = match` holds exactly for the words that decode to a
command with that row's opcode. -/
def Obligations.MaskTableSelectsCommands : Prop :=
  ∀ (w : CommandWord) (row : CommandWord × CommandWord), row ∈ maskTable →
    (w &&& row.2 = row.1 ↔ ∃ i, decode w = .ok i ∧ (encodeFields i).op = row.1.extractLsb' 24 8)

/-- R70, the spec's own inference from R61 to R63: the examples of encodings; `0x10010203` is no command. -/
def Obligations.ExampleWordsOfEncoding : Prop :=
  (encode (.gfmul 0x57 0x83 0x1B) = 0x1157831B ∧ decode 0x1157831B = .ok (.gfmul 0x57 0x83 0x1B)) ∧
  (encode (.cfg 4 4 0x1B) = 0x2004041B ∧ decode 0x2004041B = .ok (.cfg 4 4 0x1B)) ∧
  (encode (.ctxinit Mode.cbc.selector Padding.pkcs7.selector 16) = 0x50010110 ∧
    decode 0x50010110 = .ok (.ctxinit 1 1 16)) ∧
  (encode (.wrb (BitVec.ofNat 8 Buffer.din.id) 15 0x34) = 0x60020F34 ∧ decode 0x60020F34 = .ok (.wrb 2 15 0x34)) ∧
  (encode .unpad = 0x55000000 ∧ decode 0x55000000 = .ok .unpad) ∧
  decode 0x10010203 = .error .reservedField

/-- R63: a word with a listed opcode and a nonzero field its command does not use raises `E_ILLEGAL` (0x40) and nothing
else happens; with the unused fields zero it is a command, whatever the operand values. -/
def Obligations.NonzeroReservedFieldIsIllegal : Prop :=
  ∀ (s : State) (w : CommandWord) (rest : List HostEvent) (u : FieldUse),
    s.host = .command w :: rest → fieldUse (fieldsOf w).op = some u →
    ((fieldsOf w).reservedZero u = false →
      step s = .next { s with host := rest, err := 0x40, res := 0x00, eflags := s.eflags ||| 0x08 }) ∧
    ((fieldsOf w).reservedZero u = true → ∃ i, decode w = .ok i ∧ step s = exec i { s with host := rest })

/-- R64: every value of `op` that R62 does not list is illegal whatever the other fields hold. -/
def Obligations.UnlistedOpcodeIsIllegal : Prop :=
  ∀ (s : State) (w : CommandWord) (rest : List HostEvent) (op : Nat),
    s.host = .command w :: rest → op = w.toNat / 2 ^ 24 →
    (op ≤ 0x0F ∨ (0x15 ≤ op ∧ op ≤ 0x1F) ∨ (0x24 ≤ op ∧ op ≤ 0x2F) ∨ (0x32 ≤ op ∧ op ≤ 0x3F) ∨
      (0x42 ≤ op ∧ op ≤ 0x4F) ∨ (0x56 ≤ op ∧ op ≤ 0x5F) ∨ (0x62 ≤ op ∧ op ≤ 0x6F) ∨
      (0x71 ≤ op ∧ op ≤ 0x7E) ∨ 0x80 ≤ op) →
    decode w = .error .unknownOpcode ∧
    step s = .next { s with host := rest, err := 0x40, res := 0x00, eflags := s.eflags ||| 0x08 }

/-- R11, R66: a step takes the host's next command word off the list and, where it decodes to a command, is `exec` of
that command at the state without the word. -/
def Obligations.StepRunsTheDecodedCommand : Prop :=
  ∀ (s : State) (w : CommandWord) (rest : List HostEvent) (i : Instr),
    s.host = .command w :: rest → decode w = .ok i → step s = exec i { s with host := rest }

/-! Field commands -/

/-- R80: `GFADD` answers the XOR, nothing else changes, and the laws of XOR hold of it. -/
def Obligations.GfaddAnswersXor : Prop :=
  (∀ (a b : Byte) (s : State), exec (.gfadd a b) s = .next { s with err := 0x00, res := a ^^^ b }) ∧
  ∀ a b c : Byte, fieldAdd a b = a ^^^ b ∧ fieldAdd a b = fieldAdd b a ∧
    fieldAdd (fieldAdd a b) c = fieldAdd a (fieldAdd b c) ∧ fieldAdd a (fieldAdd a b) = b ∧
    fieldAdd a 0 = a ∧ fieldAdd a a = 0

/-- R82, its sentence "The algorithm computes the product of the polynomials", the spec's own inference from R81: `GFMUL`
answers the product of the polynomials `a` and `b` modulo `x^8 + m`: the carry-less product is a
multiple of `x^8 + m` plus the answer, for every modulus byte, and nothing else changes. -/
def Obligations.GfmulAnswersProductModulo : Prop :=
  ∀ (a b m : Byte) (s : State), ∃ q r : Byte,
    exec (.gfmul a b m) s = .next { s with err := 0x00, res := r } ∧
    carryless (a.setWidth 16) (b.setWidth 16) =
      carryless (q.setWidth 16) (0x100 ||| m.setWidth 16) ^^^ r.setWidth 16

/-- R82 (for a reducible modulus byte the spec's own inference): `Mul` is commutative, associative and distributes over `Add` for every modulus byte; products with 0, 1 and 2. -/
def Obligations.MulIsCommutativeRing : Prop :=
  ∀ a b c m : Byte,
    fieldMul a b m = fieldMul b a m ∧ fieldMul (fieldMul a b m) c m = fieldMul a (fieldMul b c m) m ∧
    fieldMul a (fieldAdd b c) m = fieldAdd (fieldMul a b m) (fieldMul a c m) ∧
    fieldMul a 0 m = 0 ∧ fieldMul 0 a m = 0 ∧ fieldMul a 1 m = a ∧ fieldMul 1 a m = a ∧
    fieldMul a 2 m = (a <<< 1) ^^^ (if a.getLsbD 7 then m else 0)

/-- R84: under an irreducible modulus the answer of `GFINV` is the multiplicative inverse of a nonzero `a`; `Inv(1) = 1`,
`Inv(Inv(a)) = a`; under a reducible modulus the law fails. `GFINV 0` answers 0 for every modulus (R83). -/
def Obligations.GfinvAnswersInverse : Prop :=
  ∀ m : Byte, (∀ s, exec (.gfinv 0 m) s = .next { s with err := 0x00, res := 0x00 }) ∧
    (isIrreducible m = true → ∀ a : Byte, ∃ r : Byte,
      (∀ s, exec (.gfinv a m) s = .next { s with err := 0x00, res := r }) ∧
      (∀ s, exec (.gfinv r m) s = .next { s with err := 0x00, res := a }) ∧
      (a ≠ 0 → fieldMul a r m = 1) ∧ (a = 1 → r = 1)) ∧
    (isIrreducible m = false → ∃ a r : Byte, a ≠ 0 ∧
      (∀ s, exec (.gfinv a m) s = .next { s with err := 0x00, res := r }) ∧ fieldMul a r m ≠ 1)

/-- R85, R91: `GFIRR p` answers 1 exactly where `x^8 + p` is no product of two polynomials of degree 1 to 7, else 0; a
reducible `p` is no error. -/
def Obligations.GfirrDecidesIrreducibility : Prop :=
  ∀ (p : Byte) (s : State), ∃ r : Byte,
    exec (.gfirr p) s = .next { s with err := 0x00, res := r } ∧ (r = 0 ∨ r = 1) ∧
    (r = 1 ↔ ∀ u v : Byte, 2 ≤ u.toNat → 2 ≤ v.toNat →
      carryless (u.setWidth 16) (v.setWidth 16) ≠ 0x100 ||| p.setWidth 16)

/-- R92, with the list of R87, the spec's own inference from R85: for `k` < 30 `GFIRRN k` answers the `k`-th irreducible modulus in ascending order, for `k` ≥ 30 it raises
`E_OPERAND`; the answers are exactly the bytes for which `GFIRR` answers 1. -/
def Obligations.GfirrnEnumeratesIrreducibles : Prop :=
  ∀ s : State,
    (∀ k : Byte, 30 ≤ k.toNat → Raises (.gfirrn k) s 0x41) ∧
    (∀ k : Byte, k.toNat < 30 → ∃ p, exec (.gfirrn k) s = .next { s with err := 0x00, res := p } ∧
      exec (.gfirr p) s = .next { s with err := 0x00, res := 0x01 }) ∧
    (∀ (j k p q : Byte), j.toNat < k.toNat → k.toNat < 30 →
      exec (.gfirrn j) s = .next { s with err := 0x00, res := p } →
      exec (.gfirrn k) s = .next { s with err := 0x00, res := q } → p.toNat < q.toNat) ∧
    (∀ p : Byte, exec (.gfirr p) s = .next { s with err := 0x00, res := 0x01 } →
      ∃ k : Byte, k.toNat < 30 ∧ exec (.gfirrn k) s = .next { s with err := 0x00, res := p })

/-! Configuration and substitution box -/

/-- R101, R121: `CFG` with word counts in {4, 6, 8} sets the configuration, with `NR` 10, 12 or 14 by the table of R121,
clears the five valid and run bits it names, keeps everything else and answers `NR`; another word count raises `E_CFG_PARAM`. -/
def Obligations.CfgBeginsAnInstance : Prop :=
  (∀ (k b : WordCount) (m : Byte) (s : State), ∃ r : RoundCount,
    r.toNat = (if k.toNat ≤ 4 ∧ b.toNat ≤ 4 then 10 else if k.toNat ≤ 6 ∧ b.toNat ≤ 6 then 12 else 14) ∧
    r.toNat = max k.toNat b.toNat + 6 ∧
    exec (.cfg (BitVec.ofNat 8 k.toNat) (BitVec.ofNat 8 b.toNat) m) s =
      .next { s with nk := k, nb := b, modulus := m, nr := r, cfgValid := true, sbValid := false, ksValid := false,
                     ctxValid := false, run := false, err := 0x00, res := BitVec.ofNat 8 r.toNat }) ∧
  ∀ (nk nb m : Byte) (s : State),
    (nk ≠ 4 ∧ nk ≠ 6 ∧ nk ≠ 8) ∨ (nb ≠ 4 ∧ nb ≠ 6 ∧ nb ≠ 8) → Raises (.cfg nk nb m) s 0x16

/-- R102, R103, R106: `SBGEN`. The checks in order; else, where the S-box is built already, nothing changes, and where it
is not, `SBF[b] = Affine(Inv(b, MOD))`, `Affine` spelled out bit by bit as R100 has it and `Inv(b, MOD)` what `GFINV`
answers, and the inverse permutation are written, `SB_VALID` is set, the answer is 0 and nothing else changes. -/
def Obligations.SbgenBuildsTheTables : Prop :=
  ∀ s : State,
    (s.cfgValid = false → Raises .sbgen s 0x22) ∧
    (s.cfgValid = true → s.sbValid = false → isIrreducible s.modulus = false → Raises .sbgen s 0x13) ∧
    (s.cfgValid = true → s.sbValid = true → exec .sbgen s = .next { s with err := 0x00, res := 0x00 }) ∧
    (s.cfgValid = true → s.sbValid = false → isIrreducible s.modulus = true → ∃ f g : SBox,
      exec .sbgen s = .next { s with sbf := f, sbi := g, sbValid := true, err := 0x00, res := 0x00 } ∧
      (∀ b, ∃ x : Byte, exec (.gfinv b s.modulus) s = .next { s with err := 0x00, res := x } ∧
        ∀ i, i < 8 → (lookup f b).getLsbD i = affineBit x i) ∧
      (∀ b, lookup g (lookup f b) = b) ∧ ∀ b, lookup f (lookup g b) = b)

/-- R107, R108: `SBFWD x` and `SBINV x`. The checks in order; else they leave the state `SBGEN` leaves and answer the entry
of its tables. -/
def Obligations.SboxLookupsAnswerEntries : Prop :=
  ∀ (s : State) (x : Byte),
    (s.cfgValid = false → Raises (.sbfwd x) s 0x22 ∧ Raises (.sbinv x) s 0x22) ∧
    (s.cfgValid = true → s.sbValid = false → isIrreducible s.modulus = false →
      Raises (.sbfwd x) s 0x13 ∧ Raises (.sbinv x) s 0x13) ∧
    (s.cfgValid = true → (s.sbValid = true ∨ isIrreducible s.modulus = true) →
      ∃ u, exec .sbgen s = .next u ∧ u.err = 0x00 ∧
        exec (.sbfwd x) s = .next { u with res := lookup u.sbf x } ∧
        exec (.sbinv x) s = .next { u with res := lookup u.sbi x })

/-- R109: while the tables are those of the configured modulus they are mutual inverses, and `SBF[0] = 0x63`,
`SBF[1] = 0x7C`. -/
def Obligations.TablesAreMutualInverses : Prop :=
  ∀ s : State, s.TablesCurrent → s.sbValid = true →
    (∀ x, lookup s.sbi (lookup s.sbf x) = x ∧ lookup s.sbf (lookup s.sbi x) = x) ∧
    lookup s.sbf 0 = 0x63 ∧ lookup s.sbf 1 = 0x7C

/-! Key expansion -/

/-- R123, R125: `KEXP`. The checks in order, a failing one leaving the old schedule; else the S-box is built where it is
not (as by `SBGEN`), the schedule is written (the key verbatim, then `w[i-nk] ^ temp` with the three cases of `temp`, byte
by byte as R124 writes the two helpers, the round constant what `RCON` answers), `KS_VALID` is set, `RUN` is cleared, the
answer is `NR + 1` and nothing else changes. Of the words beyond the schedule `KexpKeepsTheWordsBeyond` speaks. -/
def Obligations.KexpExpandsTheKey : Prop :=
  ∀ (len : Byte) (s : State),
    (s.cfgValid = false → Raises (.kexp len) s 0x22) ∧
    (s.cfgValid = true → len.toNat ≠ 4 * s.nk.toNat → Raises (.kexp len) s 0x10) ∧
    (s.cfgValid = true → len.toNat = 4 * s.nk.toNat → s.sbValid = false → isIrreducible s.modulus = false →
      Raises (.kexp len) s 0x13) ∧
    (s.cfgValid = true → len.toNat = 4 * s.nk.toNat → (s.sbValid = true ∨ isIrreducible s.modulus = true) →
      ∃ u t, exec .sbgen s = .next u ∧ u.err = 0x00 ∧ exec (.kexp len) s = .next t ∧
      t = { u with w := t.w, ksValid := true, run := false, res := BitVec.ofNat 8 (s.nr.toNat + 1) } ∧
      (∀ i, i < s.nk.toNat → wordAt t.w i =
        #v[s.byte .keybuf (4 * i), s.byte .keybuf (4 * i + 1), s.byte .keybuf (4 * i + 2), s.byte .keybuf (4 * i + 3)]) ∧
      (∀ i, s.nk.toNat ≤ i → i < s.nb.toNat * (s.nr.toNat + 1) → ∃ p temp : KeyWord,
        p = wordAt t.w (i - 1) ∧
        (∀ k (hk : k < 4), (wordAt t.w i)[k] = (wordAt t.w (i - s.nk.toNat))[k] ^^^ temp[k]) ∧
        (i % s.nk.toNat = 0 → ∃ c : Byte,
          exec (.rcon (BitVec.ofNat 8 (i / s.nk.toNat))) s = .next { s with err := 0x00, res := c } ∧
          temp[0] = lookup u.sbf p[1] ^^^ c ∧ temp[1] = lookup u.sbf p[2] ∧ temp[2] = lookup u.sbf p[3] ∧
          temp[3] = lookup u.sbf p[0]) ∧
        (6 < s.nk.toNat → i % s.nk.toNat = 4 →
          temp[0] = lookup u.sbf p[0] ∧ temp[1] = lookup u.sbf p[1] ∧ temp[2] = lookup u.sbf p[2] ∧
          temp[3] = lookup u.sbf p[3]) ∧
        (i % s.nk.toNat ≠ 0 → ¬(6 < s.nk.toNat ∧ i % s.nk.toNat = 4) → temp = p)))

/-- R126, with R120, whose first value and whose period are the spec's own inference: `RCON 0` raises `E_OPERAND`; `RCON 1` answers 1, each next index the double of the answer before under the
modulus 0x1B, with period 51; nothing else changes and no configuration is needed. -/
def Obligations.RconAnswersByDoubling : Prop :=
  ∀ s : State, Raises (.rcon 0) s 0x41 ∧ exec (.rcon 1) s = .next { s with err := 0x00, res := 0x01 } ∧
    (∀ j : Byte, 1 ≤ j.toNat → j.toNat < 255 → ∃ v,
      exec (.rcon j) s = .next { s with err := 0x00, res := v } ∧
      exec (.rcon (j + 1)) s = .next { s with err := 0x00, res := fieldMul v 0x02 0x1B }) ∧
    ∀ j : Byte, 1 ≤ j.toNat → j.toNat + 51 ≤ 255 → exec (.rcon (j + 51)) s = exec (.rcon j) s

/-! Block core -/

/-- R152: `ENCB`. The checks in order; else `DOUT[0..B-1]` is `EncryptBlock(DIN[0..B-1])` (what that is,
`EncryptBlockFollowsTheRounds` says), `DOUT[B..31]` is 0, the answer
is 0, every byte outside `DOUT` and every other piece of state keeps its value. -/
def Obligations.EncbEncryptsTheBlock : Prop :=
  ∀ (len : Byte) (s : State),
    (s.cfgValid = false → Raises (.encb len) s 0x22) ∧
    (s.cfgValid = true → s.ksValid = false → Raises (.encb len) s 0x20) ∧
    (s.cfgValid = true → s.ksValid = true → len.toNat ≠ 4 * s.nb.toNat → Raises (.encb len) s 0x11) ∧
    (s.cfgValid = true → s.ksValid = true → len.toNat = 4 * s.nb.toNat →
      ∃ t, exec (.encb len) s = .next t ∧ t = { s with mem := t.mem, err := 0x00, res := 0x00 } ∧
        (∀ k (hk : k < blockBytes s.nb), t.byte .dout k = (s.encrypt (s.bytes .din (blockBytes s.nb)))[k]) ∧
        (∀ k, blockBytes s.nb ≤ k → k < 32 → t.byte .dout k = 0x00) ∧
        ∀ a, ¬(Buffer.dout.addr 0 ≤ a ∧ a < Buffer.dout.addr 0 + 32) → t.mem.read a = s.mem.read a)

/-- R153: `DECB`, as R152 with `DecryptBlock` (what that is, `DecryptBlockFollowsTheRounds` says). -/
def Obligations.DecbDecryptsTheBlock : Prop :=
  ∀ (len : Byte) (s : State),
    (s.cfgValid = false → Raises (.decb len) s 0x22) ∧
    (s.cfgValid = true → s.ksValid = false → Raises (.decb len) s 0x20) ∧
    (s.cfgValid = true → s.ksValid = true → len.toNat ≠ 4 * s.nb.toNat → Raises (.decb len) s 0x11) ∧
    (s.cfgValid = true → s.ksValid = true → len.toNat = 4 * s.nb.toNat →
      ∃ t, exec (.decb len) s = .next t ∧ t = { s with mem := t.mem, err := 0x00, res := 0x00 } ∧
        (∀ k (hk : k < blockBytes s.nb), t.byte .dout k = (s.decrypt (s.bytes .din (blockBytes s.nb)))[k]) ∧
        (∀ k, blockBytes s.nb ≤ k → k < 32 → t.byte .dout k = 0x00) ∧
        ∀ a, ¬(Buffer.dout.addr 0 ≤ a ∧ a < Buffer.dout.addr 0 + 32) → t.mem.read a = s.mem.read a)

/-- R140, R142, R145, R147, R148 (the direction of R144 and the identity of R147 are the spec's own inference): each step
of the round is undone by its inverse, for every block size; MixColumns under the modulus 0x1B, SubBytes with built tables
that are those of the modulus. -/
def Obligations.RoundStepsAreInvertible : Prop :=
  ∀ (nb : WordCount) (s : Matrix nb) (x : Bytes (blockBytes nb)) (w : Schedule) (r : Nat),
    store (load x) = x ∧ invShiftRows (shiftRows s) = s ∧ shiftRows (invShiftRows s) = s ∧
    mixColumns invMixFirst 0x1B (mixColumns mixFirst 0x1B s) = s ∧
    mixColumns mixFirst 0x1B (mixColumns invMixFirst 0x1B s) = s ∧
    addRoundKey w r (addRoundKey w r s) = s ∧
    ∀ st : State, st.TablesCurrent → st.sbValid = true →
      subBytes st.sbi (subBytes st.sbf s) = s ∧ subBytes st.sbf (subBytes st.sbi s) = s

/-- R151: for every key and block size, key, block and irreducible modulus, `DECB` of what `ENCB` left in `DOUT` gives the
block back, and `ENCB` of what `DECB` left does. -/
def Obligations.BlockRoundTrip : Prop :=
  ∀ s : State, s.cfgValid = true → s.ksValid = true → s.sbValid = true → s.TablesCurrent →
    (∃ t v, exec (.encb (BitVec.ofNat 8 (blockBytes s.nb))) s = .next t ∧
      exec (.decb (BitVec.ofNat 8 (blockBytes s.nb))) (t.setBytes .din 0 (t.bytes .dout (blockBytes s.nb)).toList) = .next v ∧
      ∀ k, k < blockBytes s.nb → v.byte .dout k = s.byte .din k) ∧
    (∃ t v, exec (.decb (BitVec.ofNat 8 (blockBytes s.nb))) s = .next t ∧
      exec (.encb (BitVec.ofNat 8 (blockBytes s.nb))) (t.setBytes .din 0 (t.bytes .dout (blockBytes s.nb)).toList) = .next v ∧
      ∀ k, k < blockBytes s.nb → v.byte .dout k = s.byte .din k)

/-! Modes and padding -/

/-- R172: `CTXINIT`. The checks in order; else the selectors are stored as they are, `IV_PRESENT` says whether `ivlen` is
not 0, `CTX_VALID` is set, `RUN` is cleared, the answer is 0 and nothing else changes. -/
def Obligations.CtxinitStoresTheContext : Prop :=
  ∀ (mode pad ivlen : Byte) (s : State),
    (s.cfgValid = false → Raises (.ctxinit mode pad ivlen) s 0x22) ∧
    (s.cfgValid = true → mode ≠ 0 → ivlen = 0 → Raises (.ctxinit mode pad ivlen) s 0x14) ∧
    (s.cfgValid = true → ivlen ≠ 0 → ivlen.toNat ≠ 4 * s.nb.toNat → Raises (.ctxinit mode pad ivlen) s 0x12) ∧
    (s.cfgValid = true → ((mode = 0 ∧ ivlen = 0) ∨ ivlen.toNat = 4 * s.nb.toNat) →
      exec (.ctxinit mode pad ivlen) s =
        .next { s with mode := mode, padsel := pad, ivlen := ivlen, ivPresent := if ivlen = 0 then false else true,
                       ctxValid := true, run := false, err := 0x00, res := 0x00 })

/-- R173, R174: `START`. The checks in order; else `DIR` is set, `BLKCNT` is 0, the feedback registers are initialised from
`IVBUF` by mode with bytes B..31 zero, `RUN` is set, the answer is 0 and nothing else changes. -/
def Obligations.StartOpensTheCall : Prop :=
  ∀ (dir : Byte) (s : State),
    (s.cfgValid = false → Raises (.start dir) s 0x22) ∧
    (s.cfgValid = true → s.ctxValid = false → Raises (.start dir) s 0x21) ∧
    (s.cfgValid = true → s.ctxValid = true → s.ksValid = false → Raises (.start dir) s 0x20) ∧
    (s.cfgValid = true → s.ctxValid = true → s.ksValid = true → 6 < s.mode.toNat → Raises (.start dir) s 0x15) ∧
    (s.cfgValid = true → s.ctxValid = true → s.ksValid = true → s.mode.toNat ≤ 6 → 1 < dir.toNat →
      Raises (.start dir) s 0x41) ∧
    (s.cfgValid = true → s.ctxValid = true → s.ksValid = true → s.mode.toNat ≤ 6 → dir.toNat ≤ 1 →
      ∃ f0 f1 : Register32,
        exec (.start dir) s =
          .next { s with dir := if dir = 1 then true else false, blkcnt := 0, fb0 := f0, fb1 := f1, run := true,
                         err := 0x00, res := 0x00 } ∧
        (s.mode = 0 → f0 = s.fb0 ∧ f1 = s.fb1) ∧
        (s.mode ≠ 0 → s.mode ≠ 2 → f1 = s.fb1 ∧ ∀ k (hk : k < 32),
          f0[k] = if k < blockBytes s.nb then s.byte .ivbuf k else 0x00) ∧
        (s.mode = 2 → ∀ k (hk : k < 32),
          f0[k] = 0x00 ∧ f1[k] = if k < blockBytes s.nb then s.byte .ivbuf k else 0x00))

/-- R175 to R182: `MBLK`. The checks in order; else the block goes through the mode in direction `DIR` by the rule of the
mode, `DOUT[B..31]` is 0, the feedback registers take the new feedback in their first B bytes, `BLKCNT` counts on modulo
2^64, the answer is 0 and nothing else changes. -/
def Obligations.MblkProcessesTheBlock : Prop :=
  ∀ (len : Byte) (s : State),
    (s.cfgValid = false → Raises (.mblk len) s 0x22) ∧
    (s.cfgValid = true → s.run = false → Raises (.mblk len) s 0x21) ∧
    (s.cfgValid = true → s.run = true → len.toNat ≠ 4 * s.nb.toNat → Raises (.mblk len) s 0x11) ∧
    ∀ mode : Mode, s.cfgValid = true → s.run = true → len.toNat = 4 * s.nb.toNat → s.mode = mode.selector →
      ∃ (t : State) (y g0 g1 : Bytes (blockBytes s.nb)), exec (.mblk len) s = .next t ∧
        t = { s with mem := t.mem, fb0 := t.fb0, fb1 := t.fb1, blkcnt := s.blkcnt + 1, err := 0x00, res := 0x00 } ∧
        ModeRule mode s.dir s.encrypt s.decrypt s.blkcnt (s.bytes .din (blockBytes s.nb))
          (firstBytes s.fb0 (blockBytes s.nb)) (firstBytes s.fb1 (blockBytes s.nb)) y g0 g1 ∧
        (∀ k (hk : k < blockBytes s.nb) (hk32 : k < 32), t.byte .dout k = y[k] ∧ t.fb0[k] = g0[k] ∧ t.fb1[k] = g1[k]) ∧
        (∀ k (hk : k < 32), blockBytes s.nb ≤ k →
          t.byte .dout k = 0x00 ∧ t.fb0[k] = s.fb0[k] ∧ t.fb1[k] = s.fb1[k]) ∧
        ∀ a, ¬(Buffer.dout.addr 0 ≤ a ∧ a < Buffer.dout.addr 0 + 32) → t.mem.read a = s.mem.read a

/-- THE MODEL'S CHOICE, log entry 11: where `RUN = 1` and `MODE > 6`, which R28 says no reachable state is, `MBLK` of the
block size stops with the named fault. -/
def Obligations.MblkStopsWithoutMode : Prop :=
  ∀ (len : Byte) (s : State), s.cfgValid = true → s.run = true → len.toNat = 4 * s.nb.toNat → 6 < s.mode.toNat →
    exec (.mblk len) s = .fault .openCallWithoutMode

/-- R184: `MPART`. The checks in order; else the first `n` bytes of `DIN` are XORed with the keystream of the mode, the
rest of `DOUT` is 0, `BLKCNT` counts on, `RUN` is cleared, the answer is `n` and nothing else changes. -/
def Obligations.MpartProcessesTheTail : Prop :=
  ∀ (n : Byte) (s : State),
    (s.cfgValid = false → Raises (.mpart n) s 0x22) ∧
    (s.cfgValid = true → s.run = false → Raises (.mpart n) s 0x21) ∧
    (s.cfgValid = true → s.run = true → s.mode.toNat ∉ [3, 4, 5] → Raises (.mpart n) s 0x11) ∧
    (s.cfgValid = true → s.run = true → s.mode.toNat ∈ [3, 4, 5] → (n.toNat < 1 ∨ blockBytes s.nb ≤ n.toNat) →
      Raises (.mpart n) s 0x41) ∧
    (s.cfgValid = true → s.run = true → s.mode.toNat ∈ [3, 4, 5] → 1 ≤ n.toNat → n.toNat < blockBytes s.nb →
      ∃ (t : State) (k : Bytes (blockBytes s.nb)), exec (.mpart n) s = .next t ∧
        t = { s with mem := t.mem, blkcnt := s.blkcnt + 1, run := false, err := 0x00, res := n } ∧
        (s.mode = 5 → k = s.encrypt (ctrBlock (firstBytes s.fb0 (blockBytes s.nb)) s.blkcnt)) ∧
        (s.mode ≠ 5 → k = s.encrypt (firstBytes s.fb0 (blockBytes s.nb))) ∧
        (∀ j (hj : j < blockBytes s.nb), j < n.toNat → t.byte .dout j = s.byte .din j ^^^ k[j]) ∧
        (∀ j, n.toNat ≤ j → j < 32 → t.byte .dout j = 0x00) ∧
        ∀ a, ¬(Buffer.dout.addr 0 ≤ a ∧ a < Buffer.dout.addr 0 + 32) → t.mem.read a = s.mem.read a)

/-- R184, R210: the same `MPART` serves both directions: in an open CFB, OFB or CTR call, `MPART n` of what `MPART n` left
in `DOUT`, from the same feedback and block index, gives the `n` bytes back. -/
def Obligations.TailRoundTrip : Prop :=
  ∀ (n : Byte) (s : State), s.cfgValid = true → s.run = true → s.mode.toNat ∈ [3, 4, 5] → 1 ≤ n.toNat →
    n.toNat < blockBytes s.nb →
    ∃ t v, exec (.mpart n) s = .next t ∧
      exec (.mpart n) (s.setBytes .din 0 (t.bytes .dout n.toNat).toList) = .next v ∧
      ∀ j, j < n.toNat → v.byte .dout j = s.byte .din j

/-- R190, the layout held as log entry 6 says: the counter block keeps all but the last 8 bytes of the IV, and these read big-endian are the IV's plus the block
index, modulo 2^64, for every block size. -/
def Obligations.CounterBlockAddsTheIndex : Prop :=
  ∀ (nb : WordCount) (iv : Bytes (blockBytes nb)) (i : BitVec 64),
    (∀ j (hj : j < blockBytes nb), j < blockBytes nb - 8 → (ctrBlock iv i)[j] = iv[j]) ∧
    (List.range 8).foldl (fun acc k => acc * 256 + (byteAt (ctrBlock iv i) (blockBytes nb - 8 + k)).toNat) 0 =
      ((List.range 8).foldl (fun acc k => acc * 256 + (byteAt iv (blockBytes nb - 8 + k)).toNat) 0 + i.toNat) % 2 ^ 64

/-- R193 (`DeltaGen` itself is free, log entry 5): the seed is the last 4 bytes of the IV read big-endian XOR the block index modulo 2^32, and `DeltaGen` is a
function of seed and count. -/
def Obligations.DeltaSeedIsLastFourBytes : Prop :=
  ∀ (nb : WordCount) (iv : Bytes (blockBytes nb)) (i : BitVec 64),
    (deltaSeed iv i).toNat =
      ((List.range 4).foldl (fun acc k => acc * 256 + (byteAt iv (blockBytes nb - 4 + k)).toNat) 0) ^^^ (i.toNat % 2 ^ 32)

/-- R195 to R199: `PAD`. The checks in order; in a stream-style mode it answers `n` and changes nothing else; in a padded
mode it fills `DIN[n..B-1]` by the scheme (for ISO10126 only the last byte is fixed, whatever the draw), answers B, and
every byte outside the filled run and every other piece of the unit's state keeps its value (`draws` is the model's own). -/
def Obligations.PadFillsTheBlock : Prop :=
  ∀ (n : Byte) (s : State),
    (s.cfgValid = false → Raises (.pad n) s 0x22) ∧
    (s.cfgValid = true → s.ctxValid = false → Raises (.pad n) s 0x21) ∧
    (s.cfgValid = true → s.ctxValid = true → 6 < s.mode.toNat → Raises (.pad n) s 0x15) ∧
    (s.cfgValid = true → s.ctxValid = true → 3 ≤ s.mode.toNat → s.mode.toNat ≤ 6 →
      (blockBytes s.nb < n.toNat → Raises (.pad n) s 0x41) ∧
      (n.toNat ≤ blockBytes s.nb → exec (.pad n) s = .next { s with err := 0x00, res := n })) ∧
    (s.cfgValid = true → s.ctxValid = true → s.mode.toNat < 3 → 3 < s.padsel.toNat → Raises (.pad n) s 0x15) ∧
    (s.cfgValid = true → s.ctxValid = true → s.mode.toNat < 3 → s.padsel.toNat ≤ 3 →
      (blockBytes s.nb ≤ n.toNat → Raises (.pad n) s 0x41) ∧
      (n.toNat < blockBytes s.nb → ∃ t, exec (.pad n) s = .next t ∧
        t = { s with mem := t.mem, draws := t.draws, err := 0x00, res := BitVec.ofNat 8 (blockBytes s.nb) } ∧
        (∀ j, n.toNat ≤ j → j < blockBytes s.nb →
          (s.padsel = 0 → t.byte .din j = 0x00) ∧
          (s.padsel = 1 → t.byte .din j = BitVec.ofNat 8 (blockBytes s.nb - n.toNat)) ∧
          (s.padsel = 2 → t.byte .din j =
            if j = blockBytes s.nb - 1 then BitVec.ofNat 8 (blockBytes s.nb - n.toNat) else 0x00) ∧
          (s.padsel = 3 → j = blockBytes s.nb - 1 → t.byte .din j = BitVec.ofNat 8 (blockBytes s.nb - n.toNat))) ∧
        ∀ a, ¬(Buffer.din.addr n.toNat ≤ a ∧ a < Buffer.din.addr (blockBytes s.nb)) → t.mem.read a = s.mem.read a))

/-- R200 to R204: `UNPAD`. The checks in order; in a stream-style mode and with Zeros it answers B; else the length byte
`DOUT[B-1]` and the fill bytes decide between `E_PAD` and B minus the pad length. Nothing else changes. -/
def Obligations.UnpadReportsTheLength : Prop :=
  ∀ (s : State) (len : Nat), len = (s.byte .dout (blockBytes s.nb - 1)).toNat →
    (s.cfgValid = false → Raises .unpad s 0x22) ∧
    (s.cfgValid = true → s.ctxValid = false → Raises .unpad s 0x21) ∧
    (s.cfgValid = true → s.ctxValid = true → 6 < s.mode.toNat → Raises .unpad s 0x15) ∧
    (s.cfgValid = true → s.ctxValid = true → 3 ≤ s.mode.toNat → s.mode.toNat ≤ 6 →
      exec .unpad s = .next { s with err := 0x00, res := BitVec.ofNat 8 (blockBytes s.nb) }) ∧
    (s.cfgValid = true → s.ctxValid = true → s.mode.toNat < 3 →
      (3 < s.padsel.toNat → Raises .unpad s 0x15) ∧
      (s.padsel = 0 → exec .unpad s = .next { s with err := 0x00, res := BitVec.ofNat 8 (blockBytes s.nb) }) ∧
      (1 ≤ s.padsel.toNat → s.padsel.toNat ≤ 3 → (len < 1 ∨ blockBytes s.nb < len) → Raises .unpad s 0x30) ∧
      (s.padsel = 1 → (∃ k, blockBytes s.nb - len ≤ k ∧ k < blockBytes s.nb ∧ (s.byte .dout k).toNat ≠ len) →
        Raises .unpad s 0x30) ∧
      (s.padsel = 2 → 1 ≤ len → len ≤ blockBytes s.nb →
        (∃ k, blockBytes s.nb - len ≤ k ∧ k < blockBytes s.nb - 1 ∧ s.byte .dout k ≠ 0x00) → Raises .unpad s 0x30) ∧
      (1 ≤ len → len ≤ blockBytes s.nb →
        ((s.padsel = 1 ∧ ∀ k, blockBytes s.nb - len ≤ k → k < blockBytes s.nb → (s.byte .dout k).toNat = len) ∨
          (s.padsel = 2 ∧ ∀ k, blockBytes s.nb - len ≤ k → k < blockBytes s.nb - 1 → s.byte .dout k = 0x00) ∨
          s.padsel = 3) →
        exec .unpad s = .next { s with err := 0x00, res := BitVec.ofNat 8 (blockBytes s.nb - len) }))

/-- R199, R210: in a padded mode with PKCS7, ANSIX923 or ISO10126, whatever the filler drawn, `UNPAD` of the block `PAD n`
made answers `n`. -/
def Obligations.UnpadUndoesPad : Prop :=
  ∀ (n : Byte) (s : State), s.cfgValid = true → s.ctxValid = true → s.mode.toNat < 3 →
    1 ≤ s.padsel.toNat → s.padsel.toNat ≤ 3 → n.toNat < blockBytes s.nb →
    ∃ t v, exec (.pad n) s = .next t ∧
      exec .unpad (t.setBytes .dout 0 (t.bytes .din (blockBytes s.nb)).toList) = .next v ∧ v.err = 0x00 ∧ v.res = n

/-- R176 to R182, R210: for every mode, a message of whole blocks enciphered and then deciphered block after block from the
same feedback and block index comes back whole, and both runs leave the same feedback, for every `DeltaGen`. -/
def Obligations.MessageRoundTrip : Prop :=
  ∀ (n : Nat) (mode : Mode) (e d : Bytes n → Bytes n) (msg : List (Bytes n)) (fb : Feedback n) (i : BitVec 64),
    (∀ x, d (e x) = x) →
    modeRun mode true e d (modeRun mode false e d msg fb i).1 fb i = (msg, (modeRun mode false e d msg fb i).2)

/-- R205: in the modes whose encryption is parallelizable no block's feedback depends on the block; in those whose
decryption is, the feedback after a block depends on its ciphertext alone, not on what the cipher makes of it. -/
def Obligations.ParallelModesAreIndependent : Prop :=
  ∀ (n : Nat) (mode : Mode) (e d e' d' : Bytes n → Bytes n) (x : Bytes n) (fb : Feedback n) (i : BitVec 64),
    (mode.parallelEncrypt = true → (modeStep mode false e d x fb i).2 = fb) ∧
    (mode.parallelDecrypt = true → (modeStep mode true e d x fb i).2 = (modeStep mode true e' d' x fb i).2)

/-! Buffers, status, reset -/

/-- R41, R222: `WRB` writes one byte of `KEYBUF`, `IVBUF` or `DIN` and nothing else; another buffer id or an index above 31
raises `E_OPERAND`. -/
def Obligations.WrbWritesOneByte : Prop :=
  ∀ (buf idx val : Byte) (s : State),
    (2 < buf.toNat ∨ 31 < idx.toNat → Raises (.wrb buf idx val) s 0x41) ∧
    ∀ b : Buffer, b.id = buf.toNat → buf.toNat ≤ 2 → idx.toNat ≤ 31 →
      ∃ t, exec (.wrb buf idx val) s = .next t ∧ t = { s with mem := t.mem, err := 0x00, res := 0x00 } ∧
        t.byte b idx.toNat = val ∧ ∀ a, a ≠ b.addr idx.toNat → t.mem.read a = s.mem.read a

/-- R41, R221: `RDB` answers one byte of `DIN` or `DOUT` and changes nothing else; another buffer id or an index above 31
raises `E_OPERAND`. -/
def Obligations.RdbAnswersTheByte : Prop :=
  ∀ (buf idx : Byte) (s : State),
    ((buf.toNat ≠ 2 ∧ buf.toNat ≠ 3) ∨ 31 < idx.toNat → Raises (.rdb buf idx) s 0x41) ∧
    (buf.toNat = 2 → idx.toNat ≤ 31 →
      exec (.rdb buf idx) s = .next { s with err := 0x00, res := s.byte .din idx.toNat }) ∧
    (buf.toNat = 3 → idx.toNat ≤ 31 →
      exec (.rdb buf idx) s = .next { s with err := 0x00, res := s.byte .dout idx.toNat })

/-- R27, R223: `RDST sel` answers the status byte of the table and changes nothing else; `sel` > 8 raises `E_OPERAND`. -/
def Obligations.RdstAnswersTheStatus : Prop :=
  ∀ s : State, (∀ sel : Byte, 8 < sel.toNat → Raises (.rdst sel) s 0x41) ∧
    (∃ f : Byte, exec (.rdst 0) s = .next { s with err := 0x00, res := f } ∧
      f.getLsbD 0 = s.cfgValid ∧ f.getLsbD 1 = s.sbValid ∧ f.getLsbD 2 = s.ksValid ∧ f.getLsbD 3 = s.ctxValid ∧
      f.getLsbD 4 = s.run ∧ f.getLsbD 5 = s.dir ∧ f.getLsbD 6 = s.ivPresent ∧ f.getLsbD 7 = false) ∧
    exec (.rdst 1) s = .next { s with err := 0x00, res := BitVec.ofNat 8 s.nk.toNat } ∧
    exec (.rdst 2) s = .next { s with err := 0x00, res := BitVec.ofNat 8 s.nb.toNat } ∧
    exec (.rdst 3) s = .next { s with err := 0x00, res := BitVec.ofNat 8 s.nr.toNat } ∧
    exec (.rdst 4) s = .next { s with err := 0x00, res := s.modulus } ∧
    exec (.rdst 5) s = .next { s with err := 0x00, res := s.mode } ∧
    exec (.rdst 6) s = .next { s with err := 0x00, res := s.padsel } ∧
    exec (.rdst 7) s = .next { s with err := 0x00, res := s.ivlen } ∧
    exec (.rdst 8) s = .next { s with err := 0x00, res := s.eflags }

/-- R30, R281: what reset leaves, and which commands work right after it; every other command answers `E_ORD_NOCFG`. -/
def Obligations.ResetStateIsTheTable : Prop :=
  (State.reset.res = 0 ∧ State.reset.err = 0 ∧ State.reset.eflags = 0) ∧
  (State.reset.cfgValid = false ∧ State.reset.sbValid = false ∧ State.reset.ksValid = false ∧
    State.reset.ctxValid = false ∧ State.reset.run = false ∧ State.reset.dir = false ∧ State.reset.ivPresent = false) ∧
  (State.reset.nk.toNat = 4 ∧ State.reset.nb.toNat = 4 ∧ State.reset.nr.toNat = 10 ∧ State.reset.modulus = 0x1B) ∧
  (State.reset.mode = 0 ∧ State.reset.padsel = 0 ∧ State.reset.ivlen = 0 ∧ State.reset.blkcnt = 0) ∧
  (∀ (b : Buffer) (i : Nat), State.reset.byte b i = 0) ∧
  (∀ i (h : i < 32), State.reset.fb0[i] = 0 ∧ State.reset.fb1[i] = 0) ∧
  (∀ x : Byte, lookup State.reset.sbf x = 0 ∧ lookup State.reset.sbi x = 0) ∧
  (∀ i, wordAt State.reset.w i = #v[0, 0, 0, 0]) ∧
  ∀ (a b m : Byte),
    (∀ i ∈ [Instr.gfadd a b, .gfmul a b m, .gfinv a m, .gfirr a, .gfirrn a, .rcon a, .wrb a b m, .rdb a b, .rdst a, .rst,
        .cfg a b m], ∃ t, exec i State.reset = .next t ∧ t.err ≠ 0x22) ∧
    ∀ i ∈ [Instr.sbgen, .sbfwd a, .sbinv a, .kexp a, .encb a, .decb a, .ctxinit a b m, .start a, .mblk a, .mpart a, .pad a,
        .unpad], Raises i State.reset 0x22

/-- R224, R280: `RST` cannot fail, puts every piece of the unit's state at its reset value and answers 0; hardware reset
gives exactly the same state. THE MODEL'S CHOICES: that hardware reset is an act of the host between two commands (log
entry 3), and that what the host has yet to do (log entry 1) and the count of draws (log entry 4), the model's own fields,
stay. -/
def Obligations.RstIsHardwareReset : Prop :=
  ∀ s : State,
    exec .rst s = .next { State.reset with host := s.host, draws := s.draws } ∧
    ∀ rest, s.host = .hardwareReset :: rest →
      step s = .next { State.reset with host := rest, draws := s.draws } ∧
      step s = exec .rst { s with host := rest }

/-! Whole-machine rules -/

/-- R65, R252, R253: a command that ends with an error changes `ERR`, `RES` (to 0) and the bit of its kind in `EFLAGS`, and
nothing else; the response is the code shifted left by 8. -/
def Obligations.ErrorsArePrecise : Prop :=
  ∀ (i : Instr) (s t : State), exec i s = .next t → t.err ≠ 0x00 →
    t = { s with err := t.err, res := 0x00, eflags := s.eflags ||| ((0x01 : Byte) <<< ((t.err >>> 4).toNat - 1)) } ∧
    t.response.toNat = t.err.toNat * 2 ^ 8

/-- R255, R256 (a table the spec collects from the command rules): the first failing check of the table decides the error, for every command and state. -/
def Obligations.FirstFailingCheckDecides : Prop :=
  ∀ (i : Instr) (s t : State), exec i s = .next t → t.err = firstFailure i s

/-- R251: no command answers with a code the table does not list for it; a word that is no command answers 0x40. -/
def Obligations.ErrorCodesAreThoseListed : Prop :=
  (∀ (i : Instr) (s t : State), exec i s = .next t → t.err ∈ mayAnswer i) ∧
  (∀ i : Instr, ∀ c ∈ mayAnswer i, c ∈ errCodes) ∧
  ∀ (s t : State) (w : CommandWord) (rest : List HostEvent), s.host = .command w :: rest →
    (∀ i, decode w ≠ .ok i) → step s = .next t → t.err = 0x40

/-- R65, R175: where an open call has a recognised mode (R28), every command in every state answers with a next state, whose
response is `ERR` over `RES`. -/
def Obligations.EveryCommandAnswers : Prop :=
  ∀ (i : Instr) (s : State), (s.run = true → s.mode.toNat ≤ 6) →
    ∃ t, exec i s = .next t ∧ t.response.extractLsb' 8 8 = t.err ∧ t.response.extractLsb' 0 8 = t.res

/-- R15, R254: no command but `RST` clears a bit of `EFLAGS`; a successful one leaves `EFLAGS` as it was; a failing one sets
the bit of its kind: bit 0 Configuration, 1 Usage-ordering, 2 Padding/integrity, 3 Illegal/operand. -/
def Obligations.EflagsAreSticky : Prop :=
  ∀ (i : Instr) (s t : State), i ≠ .rst → exec i s = .next t →
    (∀ b, s.eflags.getLsbD b = true → t.eflags.getLsbD b = true) ∧
    (t.err = 0x00 → t.eflags = s.eflags) ∧
    (t.err.toNat / 16 = 1 → t.eflags.getLsbD 0 = true) ∧ (t.err.toNat / 16 = 2 → t.eflags.getLsbD 1 = true) ∧
    (t.err.toNat / 16 = 3 → t.eflags.getLsbD 2 = true) ∧ (t.err.toNat / 16 = 4 → t.eflags.getLsbD 3 = true)

/-- R16, R17, R19, R23 to R26, R31: which commands write which registers and tables, and of the valid and run bits which
commands set and which clear them. What writes `RES`, `ERR` and `EFLAGS` is `EveryCommandAnswers` and `EflagsAreSticky`. -/
def Obligations.RegistersHaveOnlyTheirWriters : Prop :=
  ∀ (i : Instr) (s t : State), exec i s = .next t → i ≠ .rst →
    ((∀ nk nb m, i ≠ .cfg nk nb m) →
      t.cfgValid = s.cfgValid ∧ t.nk = s.nk ∧ t.nb = s.nb ∧ t.nr = s.nr ∧ t.modulus = s.modulus) ∧
    ((i ≠ .sbgen ∧ (∀ x, i ≠ .sbfwd x) ∧ (∀ x, i ≠ .sbinv x) ∧ ∀ len, i ≠ .kexp len) → t.sbf = s.sbf ∧ t.sbi = s.sbi) ∧
    ((∀ len, i ≠ .kexp len) → t.w = s.w) ∧
    ((∀ mode pad ivlen, i ≠ .ctxinit mode pad ivlen) →
      t.mode = s.mode ∧ t.padsel = s.padsel ∧ t.ivlen = s.ivlen ∧ t.ivPresent = s.ivPresent) ∧
    ((∀ dir, i ≠ .start dir) → t.dir = s.dir) ∧
    (((∀ dir, i ≠ .start dir) ∧ ∀ len, i ≠ .mblk len) → t.fb0 = s.fb0 ∧ t.fb1 = s.fb1) ∧
    (((∀ dir, i ≠ .start dir) ∧ (∀ len, i ≠ .mblk len) ∧ ∀ n, i ≠ .mpart n) → t.blkcnt = s.blkcnt) ∧
    (s.sbValid = true → (∀ nk nb m, i ≠ .cfg nk nb m) → t.sbValid = true ∧ t.sbf = s.sbf ∧ t.sbi = s.sbi) ∧
    (s.cfgValid = true → t.cfgValid = true) ∧
    ((i ≠ .sbgen ∧ (∀ x, i ≠ .sbfwd x) ∧ (∀ x, i ≠ .sbinv x) ∧ ∀ len, i ≠ .kexp len) →
      t.sbValid = true → s.sbValid = true) ∧
    ((∀ len, i ≠ .kexp len) → t.ksValid = true → s.ksValid = true) ∧
    ((∀ nk nb m, i ≠ .cfg nk nb m) → s.ksValid = true → t.ksValid = true) ∧
    ((∀ mode pad ivlen, i ≠ .ctxinit mode pad ivlen) → t.ctxValid = true → s.ctxValid = true) ∧
    ((∀ nk nb m, i ≠ .cfg nk nb m) → s.ctxValid = true → t.ctxValid = true) ∧
    ((∀ dir, i ≠ .start dir) → t.run = true → s.run = true) ∧
    (((∀ nk nb m, i ≠ .cfg nk nb m) ∧ (∀ len, i ≠ .kexp len) ∧ (∀ mode pad ivlen, i ≠ .ctxinit mode pad ivlen) ∧
      ∀ n, i ≠ .mpart n) → s.run = true → t.run = true)

/-- R18, R20, R21, R22, R31: no command changes `KEYBUF` or `IVBUF` except `WRB` and `RST`, none `DIN` except `WRB`, `PAD`
and `RST`, none `DOUT` except `ENCB`, `DECB`, `MBLK`, `MPART` and `RST`. -/
def Obligations.BuffersHaveOnlyTheirWriters : Prop :=
  ∀ (i : Instr) (s t : State), exec i s = .next t → i ≠ .rst →
    ((∀ buf idx val, i ≠ .wrb buf idx val) → ∀ j, j < 32 →
      t.byte .keybuf j = s.byte .keybuf j ∧ t.byte .ivbuf j = s.byte .ivbuf j) ∧
    (((∀ buf idx val, i ≠ .wrb buf idx val) ∧ ∀ n, i ≠ .pad n) → ∀ j, j < 32 → t.byte .din j = s.byte .din j) ∧
    (((∀ len, i ≠ .encb len) ∧ (∀ len, i ≠ .decb len) ∧ (∀ len, i ≠ .mblk len) ∧ ∀ n, i ≠ .mpart n) →
      ∀ j, j < 32 → t.byte .dout j = s.byte .dout j)

/-- R41, R51: two states that differ at most in `KEYBUF` answer every command but `KEXP` with the same response and differ
afterwards at most in `KEYBUF`: no command returns key bytes, and a key written after `KEXP` is not in use until the next.
THE MODEL'S CHOICE, log entry 4: both runs draw the same ISO10126 filler, so nothing is said of a filler made from the key. -/
def Obligations.KeyBufferIsNotReadable : Prop :=
  ∀ (i : Instr) (s s' t : State), SameButKeybuf s s' → (∀ len, i ≠ .kexp len) → exec i s = .next t →
    ∃ t', exec i s' = .next t' ∧ t'.response = t.response ∧ SameButKeybuf t t'

/-- R28, the spec's own inference from the command rules, and what R15, R17, R19, R41, R251 say of every reachable state:
the invariant is kept by every step, from every
state that meets it. -/
def Obligations.InvariantIsKeptByEveryStep : Prop :=
  ∀ s t : State, s.Inv → step s = .next t → t.Inv

/-- The invariant holds right after reset, whatever the host is about to do. -/
def Obligations.InvariantHoldsAtReset : Prop :=
  ∀ (host : List HostEvent) (draws : Nat), ({ State.reset with host := host, draws := draws } : State).Inv

/-- R65, R283: from a state that meets the invariant every step goes on: the unit never stops, and any number of steps from
reset, whatever the host issues, ends in a state that meets the invariant. -/
def Obligations.TheUnitNeverStops : Prop :=
  (∀ s : State, s.Inv → ∃ t, step s = .next t ∧ t.Inv) ∧
  ∀ (k : Nat) (host : List HostEvent), ∃ t, core.run k { State.reset with host := host } = .next t ∧ State.Inv t

/-! The functions behind the tables, the schedule and the block core, entry by entry -/

/-- R100: `Affine(x)`, bit by bit, and that it is a bijection on bytes; the examples of the rule. -/
def Obligations.AffineIsTheXorOfRotations : Prop :=
  (∀ (x : Byte) (i : Nat), i < 8 → (affine x).getLsbD i = affineBit x i) ∧ Function.Bijective affine ∧
  affine 0x00 = 0x63 ∧ affine 0x01 = 0x7C ∧ affine 0x02 = 0x5D ∧ affine 0x80 = 0xEC ∧ affine 0xFF = 0x9C

/-- R140, R142 to R148 (the direction of R144 and the arrangement of R146 are the spec's own inference): `Load`, `Store`
and the steps of the round and their inverses by their entries, for every block size. `cell s r c` is `s[r][c]`. -/
def Obligations.RoundStepsByEntries : Prop :=
  ∀ (nb : WordCount) (s : Matrix nb) (x : Bytes (blockBytes nb)) (f : SBox) (w : Schedule) (round r c : Nat),
    r < 4 → c < nb.toNat →
    cell (load x) r c = byteAt x (r + 4 * c) ∧ byteAt (store s) (r + 4 * c) = cell s r c ∧
    cell (subBytes f s) r c = lookup f (cell s r c) ∧
    cell (shiftRows s) r c = cell s r ((c + rowShift nb r) % nb.toNat) ∧
    cell (invShiftRows s) r c = cell s r ((c + (nb.toNat - rowShift nb r)) % nb.toNat) ∧
    cell (addRoundKey w round s) r c = cell s r c ^^^ byteAt (wordAt w (round * nb.toNat + c)) r ∧
    (∀ v : Nat → Byte, (∀ k, v k = cell s k c) →
      cell (mixColumns mixFirst 0x1B s) r c = mixedByte r v ∧ cell (mixColumns invMixFirst 0x1B s) r c = unmixedByte r v)

/-- R140 to R149, R122 (the direction of R144 and the arrangement of R146 are the spec's own inference; the modulus of
MixColumns is `0x1B`, log entry 7): `EncryptBlock` by its rounds, byte by byte. `g i r c` is the matrix after round `i`
(round 0 is the XOR with round key 0), `h i r c` the matrix of round `i` after SubBytes and ShiftRows. -/
def Obligations.EncryptBlockFollowsTheRounds : Prop :=
  ∀ (s : State) (x : Bytes (blockBytes s.nb)), ∃ g h : Nat → Nat → Nat → Byte,
    ∀ r c, r < 4 → c < s.nb.toNat →
      g 0 r c = byteAt x (r + 4 * c) ^^^ s.roundKeyByte 0 r c ∧
      (∀ i, 1 ≤ i → i ≤ s.nr.toNat → h i r c = lookup s.sbf (g (i - 1) r ((c + rowShift s.nb r) % s.nb.toNat))) ∧
      (∀ i, 1 ≤ i → i < s.nr.toNat → g i r c = mixedByte r (fun k => h i k c) ^^^ s.roundKeyByte i r c) ∧
      g s.nr.toNat r c = h s.nr.toNat r c ^^^ s.roundKeyByte s.nr.toNat r c ∧
      byteAt (s.encrypt x) (r + 4 * c) = g s.nr.toNat r c

/-- R140 to R148, R150, R122 (the direction of R144 and the arrangement of R146 are the spec's own inference; the modulus
of InvMixColumns is `0x1B`, log entry 7): `DecryptBlock` by its rounds, last first, byte by byte. `h i r c` is the matrix of
round `i` after InvShiftRows and InvSubBytes, `g i r c` the matrix before these two. -/
def Obligations.DecryptBlockFollowsTheRounds : Prop :=
  ∀ (s : State) (y : Bytes (blockBytes s.nb)), ∃ g h : Nat → Nat → Nat → Byte,
    ∀ r c, r < 4 → c < s.nb.toNat →
      g s.nr.toNat r c = byteAt y (r + 4 * c) ^^^ s.roundKeyByte s.nr.toNat r c ∧
      (∀ i, 1 ≤ i → i ≤ s.nr.toNat →
        h i r c = lookup s.sbi (g i r ((c + (s.nb.toNat - rowShift s.nb r)) % s.nb.toNat))) ∧
      (∀ i, 1 ≤ i → i < s.nr.toNat → g i r c = unmixedByte r (fun k => h (i + 1) k c ^^^ s.roundKeyByte i k c)) ∧
      byteAt (s.decrypt y) (r + 4 * c) = h 1 r c ^^^ s.roundKeyByte 0 r c

/-- THE MODEL'S CHOICE, log entry 13: `KEXP` leaves the words of the schedule store beyond the schedule as they are; R19
says only that they are not meaningful. -/
def Obligations.KexpKeepsTheWordsBeyond : Prop :=
  ∀ (len : Byte) (s t : State), exec (.kexp len) s = .next t →
    ∀ i, s.nb.toNat * (s.nr.toNat + 1) ≤ i → wordAt t.w i = wordAt s.w i
end

