-- ==== Sys2Proof/Laws/Memory.lean ====
section
/-! SUPPORT. What the memory operations do: reading after writing, and the canonical form every operation keeps. -/

namespace Sys2Proof.Machine

theorem Memory.read_erase_same (m : Memory) (a : Nat) : (m.erase a).read a = Memory.unlisted := by
  induction m with
  | nil => rfl
  | cons c rest ih =>
    obtain ⟨b, v⟩ := c
    by_cases h : b = a
    · simpa [Memory.erase, h] using ih
    · simpa [Memory.erase, h, Memory.read] using ih

theorem Memory.read_erase_other (m : Memory) (a x : Nat) (hx : x ≠ a) : (m.erase a).read x = m.read x := by
  induction m with
  | nil => rfl
  | cons c rest ih =>
    obtain ⟨b, v⟩ := c
    by_cases h : b = a
    · subst h
      simpa [Memory.erase, Memory.read, Ne.symm hx] using ih
    · by_cases h' : b = x
      · subst h'; simp [Memory.erase, Memory.read, h]
      · simpa [Memory.erase, Memory.read, h, h'] using ih

theorem Memory.read_insert_other (m : Memory) (a x : Nat) (v : Byte) (hx : x ≠ a) :
    (m.insert a v).read x = m.read x := by
  induction m with
  | nil => simp [Memory.insert, Memory.read, Ne.symm hx]
  | cons c rest ih =>
    obtain ⟨b, u⟩ := c
    simp only [Memory.insert]
    split
    · simp [Memory.read, Ne.symm hx]
    · simp [Memory.read, ih]

theorem Memory.read_insert_same (m : Memory) (a : Nat) (v : Byte) (h : ∀ c ∈ m, c.1 ≠ a) :
    (m.insert a v).read a = v := by
  induction m with
  | nil => simp [Memory.insert, Memory.read]
  | cons c rest ih =>
    obtain ⟨b, u⟩ := c
    simp only [Memory.insert]
    split
    · simp [Memory.read]
    · have hb : b ≠ a := h (b, u) (by simp)
      simp [Memory.read, hb, ih fun c hc => h c (by simp [hc])]

theorem Memory.not_mem_erase (m : Memory) (a : Nat) : ∀ c ∈ m.erase a, c.1 ≠ a := by
  intro c hc
  simp [Memory.erase] at hc
  exact hc.2

/-- A read of the address just written gives the byte written. -/
@[simp] theorem Memory.read_write_same (m : Memory) (a : Nat) (v : Byte) : (m.write a v).read a = v := by
  unfold Memory.write
  split
  · next h => rw [Memory.read_erase_same, h]
  · exact Memory.read_insert_same _ _ _ (Memory.not_mem_erase m a)

/-- A write leaves every other address alone. -/
theorem Memory.read_write_other (m : Memory) (a x : Nat) (v : Byte) (hx : x ≠ a) : (m.write a v).read x = m.read x := by
  unfold Memory.write
  split
  · exact Memory.read_erase_other m a x hx
  · rw [Memory.read_insert_other _ _ _ _ hx, Memory.read_erase_other m a x hx]

/-- A read after a run of bytes was written: the byte of the run where the address lies in it, else what it was. -/
theorem Memory.read_writeRange (vs : List Byte) (m : Memory) (a x : Nat) :
    (m.writeRange a vs).read x = if h : a ≤ x ∧ x - a < vs.length then vs[x - a]'h.2 else m.read x := by
  induction vs generalizing m a with
  | nil => simp [Memory.writeRange]
  | cons v rest ih =>
    simp only [Memory.writeRange, ih]
    by_cases h1 : a + 1 ≤ x ∧ x - (a + 1) < rest.length
    · have h2 : a ≤ x ∧ x - a < (v :: rest).length := by simp; omega
      rw [dif_pos h1, dif_pos h2]
      have h3 : x - a = (x - (a + 1)) + 1 := by omega
      simp [h3]
    · rw [dif_neg h1]
      by_cases h2 : x = a
      · subst h2; simp
      · have h3 : ¬(a ≤ x ∧ x - a < (v :: rest).length) := by simp; simp at h1; omega
        rw [dif_neg h3, Memory.read_write_other _ _ _ _ h2]

theorem Memory.erase_wf (m : Memory) (a : Nat) (h : m.wf) : (m.erase a).wf :=
  ⟨h.1.filter _, fun c hc => h.2 c (List.mem_of_mem_filter hc)⟩

theorem Memory.mem_insert (m : Memory) (a : Nat) (v : Byte) (c : Host.Cell) (hc : c ∈ m.insert a v) :
    c = (a, v) ∨ c ∈ m := by
  induction m with
  | nil => simpa [Memory.insert] using hc
  | cons d rest ih =>
    obtain ⟨b, u⟩ := d
    simp only [Memory.insert] at hc
    split at hc
    · simpa using hc
    · rcases List.mem_cons.mp hc with h | h
      · exact .inr (by simp [h])
      · exact (ih h).imp id fun h' => by simp [h']

theorem Memory.insert_wf (m : Memory) (a : Nat) (v : Byte) (h : m.wf) (hne : ∀ c ∈ m, c.1 ≠ a)
    (ha : a < 4 * bufferSize) (hv : v ≠ Memory.unlisted) : (m.insert a v).wf := by
  refine ⟨?_, fun c hc => ?_⟩
  · have hp := h.1
    clear h
    induction m with
    | nil => simp [Memory.insert]
    | cons d rest ih =>
      obtain ⟨b, u⟩ := d
      have hb : b ≠ a := hne (b, u) (by simp)
      rw [List.pairwise_cons] at hp
      simp only [Memory.insert]
      split
      · next hlt =>
        refine List.pairwise_cons.mpr ⟨fun c hc => ?_, List.pairwise_cons.mpr hp⟩
        rcases List.mem_cons.mp hc with h | h
        · simpa [h] using hlt
        · exact Nat.lt_trans hlt (hp.1 c h)
      · refine List.pairwise_cons.mpr ⟨fun c hc => ?_, ih (fun c hc => hne c (by simp [hc])) hp.2⟩
        rcases Memory.mem_insert rest a v c hc with h | h
        · subst h; simp; omega
        · exact hp.1 c h
  · rcases Memory.mem_insert m a v c hc with h' | h'
    · subst h'; exact ⟨ha, hv⟩
    · exact h.2 c h'

/-- A write inside the buffer space keeps the canonical form. -/
theorem Memory.write_wf (m : Memory) (a : Nat) (v : Byte) (h : m.wf) (ha : a < 4 * bufferSize) : (m.write a v).wf := by
  unfold Memory.write
  split
  · exact Memory.erase_wf m a h
  · next hv => exact Memory.insert_wf _ a v (Memory.erase_wf m a h) (Memory.not_mem_erase m a) ha hv

/-- A run of writes inside the buffer space keeps the canonical form. -/
theorem Memory.writeRange_wf (vs : List Byte) (m : Memory) (a : Nat) (h : m.wf) (ha : a + vs.length ≤ 4 * bufferSize) :
    (m.writeRange a vs).wf := by
  induction vs generalizing m a with
  | nil => exact h
  | cons v rest ih =>
    simp at ha
    exact ih _ _ (Memory.write_wf m a v h (by omega)) (by omega)

/-- Memory right after reset lists nothing. -/
theorem State.reset_mem_wf : State.reset.mem.wf := by decide

/-- A canonical memory is determined by what its addresses read as. -/
theorem Memory.read_of_lt_all (m : Memory) (a : Nat) (h : ∀ c ∈ m, a < c.1) : m.read a = Memory.unlisted := by
  induction m with
  | nil => rfl
  | cons d rest ih =>
    obtain ⟨b, u⟩ := d
    have hb : a < b := h (b, u) (by simp)
    simp [Memory.read, Nat.ne_of_gt hb, ih fun c hc => h c (by simp [hc])]

end Sys2Proof.Machine
end

