-- ==== Sys2Proof/Laws/Bytes.lean ====
section
/-! SUPPORT. The bytes of buffers, byte sequences, registers and matrices: what each operation's result holds at each index. -/

namespace Sys2Proof.Machine

theorem Buffer.addr_eq_iff (b c : Buffer) (i j : Nat) (hi : i < bufferSize) (hj : j < bufferSize) :
    b.addr i = c.addr j ↔ b = c ∧ i = j := by
  unfold bufferSize at hi hj
  cases b <;> cases c <;> simp [Buffer.addr, Buffer.id, bufferSize] <;> omega

theorem Buffer.addr_lt (b : Buffer) (i : Nat) (hi : i < bufferSize) : b.addr i < 4 * bufferSize := by
  unfold bufferSize at hi
  cases b <;> simp [Buffer.addr, Buffer.id, bufferSize] <;> omega

theorem WordCount.toNat_bounds (c : WordCount) : 4 ≤ c.toNat ∧ c.toNat ≤ 8 := by cases c <;> decide

/-- The block size is 16, 24 or 32 bytes. -/
theorem blockBytes_bounds (nb : WordCount) : 16 ≤ blockBytes nb ∧ blockBytes nb ≤ 32 := by cases nb <;> decide

theorem keyBytes_bounds (nk : WordCount) : 16 ≤ keyBytes nk ∧ keyBytes nk ≤ 32 := by cases nk <;> decide

/-- The schedule of a configuration fits the store (R122). -/
theorem scheduleWords_le (nk nb : WordCount) : scheduleWords nb (rounds nk nb) ≤ 120 := by
  cases nk <;> cases nb <;> decide

/-- A byte of a buffer after one byte of a buffer was written. -/
theorem State.byte_setByte (s : State) (b c : Buffer) (i j : Nat) (v : Byte) (hi : i < bufferSize) (hj : j < bufferSize) :
    (s.setByte b i v).byte c j = if c = b ∧ j = i then v else s.byte c j := by
  unfold State.byte State.setByte
  split
  · next h => rw [h.1, h.2]; exact Memory.read_write_same _ _ _
  · next h => exact Memory.read_write_other _ _ _ _ (by rw [Ne, Buffer.addr_eq_iff _ _ _ _ hj hi]; exact h)

/-- A byte of a buffer after a run of bytes of a buffer was written, the run inside its buffer. -/
theorem State.byte_setBytes (s : State) (b c : Buffer) (i j : Nat) (vs : List Byte) (hi : i + vs.length ≤ bufferSize)
    (hj : j < bufferSize) :
    (s.setBytes b i vs).byte c j =
      if h : c = b ∧ i ≤ j ∧ j - i < vs.length then vs[j - i]'h.2.2 else s.byte c j := by
  unfold State.byte State.setBytes
  rw [Memory.read_writeRange]
  unfold bufferSize at hi hj
  by_cases h : c = b ∧ i ≤ j ∧ j - i < vs.length
  · obtain ⟨rfl, h1, h2⟩ := h
    have h3 : c.addr i ≤ c.addr j ∧ c.addr j - c.addr i < vs.length := by
      simp [Buffer.addr]; omega
    have h4 : c.addr j - c.addr i = j - i := by simp [Buffer.addr]; omega
    rw [dif_pos h3, dif_pos ⟨rfl, h1, h2⟩]
    simp [h4]
  · have h3 : ¬(b.addr i ≤ c.addr j ∧ c.addr j - b.addr i < vs.length) := by
      intro hc
      apply h
      cases b <;> cases c <;> simp [Buffer.addr, Buffer.id, bufferSize] at hc ⊢ <;> omega
    rw [dif_neg h3, dif_neg h]

/-- A byte of a buffer after `DOUT` was written (R21). -/
theorem State.byte_setDout (s : State) {n : Nat} (y : Bytes n) (hn : n ≤ bufferSize) (c : Buffer) (j : Nat)
    (hj : j < bufferSize) :
    (s.setDout y).byte c j = if c = .dout then (if j < n then byteAt y j else 0x00) else s.byte c j := by
  unfold State.setDout
  rw [State.byte_setBytes _ _ _ _ _ _ (by simp; omega) hj]
  by_cases hc : c = .dout
  · rw [dif_pos ⟨hc, by omega, by simp; omega⟩, if_pos hc]
    by_cases hlt : j < n
    · rw [if_pos hlt]
      simp [hlt, byteAt]
    · rw [if_neg hlt]
      simp [List.getElem_append, hlt]
  · simp [hc]

/-- Addresses outside `DOUT` read as before after `DOUT` was written. -/
theorem State.read_setDout_other (s : State) {n : Nat} (y : Bytes n) (hn : n ≤ bufferSize) (a : Nat)
    (ha : a < 96 ∨ 128 ≤ a) : (s.setDout y).mem.read a = s.mem.read a := by
  unfold State.setDout State.setBytes
  rw [Memory.read_writeRange, dif_neg]
  simp [Buffer.addr, Buffer.id, bufferSize] at hn ⊢
  omega

theorem State.setDout_wf (s : State) {n : Nat} (y : Bytes n) (hn : n ≤ bufferSize) (h : s.mem.wf) : (s.setDout y).mem.wf :=
  Memory.writeRange_wf _ _ _ h (by simp [Buffer.addr, Buffer.id, bufferSize] at hn ⊢; omega)

@[simp] theorem byteAt_lt {n : Nat} (x : Bytes n) (i : Nat) (h : i < n) : byteAt x i = x[i] := by simp [byteAt, h]

@[simp] theorem State.bytes_getElem (s : State) (b : Buffer) (n i : Nat) (h : i < n) : (s.bytes b n)[i] = s.byte b i := by
  simp [State.bytes]

@[simp] theorem xorBytes_getElem {n : Nat} (x y : Bytes n) (i : Nat) (h : i < n) : (xorBytes x y)[i] = x[i] ^^^ y[i] := by
  simp [xorBytes]

/-- XOR with the same sequence twice gives the sequence back. -/
@[simp] theorem xorBytes_cancel {n : Nat} (x y : Bytes n) : xorBytes (xorBytes x y) y = x := by
  ext i hi : 1
  simp

@[simp] theorem firstBytes_getElem (r : Register32) (n i : Nat) (h : i < n) : (firstBytes r n)[i] = byteAt r i := by
  simp [firstBytes]

@[simp] theorem setFirstBytes_getElem {n : Nat} (r : Register32) (x : Bytes n) (i : Nat) (h : i < 32) :
    (setFirstBytes r x)[i] = if i < n then byteAt x i else r[i] := by
  simp [setFirstBytes]

@[simp] theorem fillRegister_getElem {n : Nat} (x : Bytes n) (i : Nat) (h : i < 32) :
    (fillRegister x)[i] = if i < n then byteAt x i else 0x00 := by
  simp [fillRegister]

/-- Writing back the first bytes of a register changes nothing. -/
@[simp] theorem setFirstBytes_firstBytes (r : Register32) (n : Nat) : setFirstBytes r (firstBytes r n) = r := by
  ext i hi : 1
  by_cases h : i < n
  · simp [h]; simp [byteAt, hi]
  · simp [h]

@[simp] theorem matrixOf_getElem {nb : WordCount} (entry : Fin nb.toNat → Fin 4 → Byte) (c r : Nat) (hc : c < nb.toNat)
    (hr : r < 4) : ((matrixOf entry)[c])[r] = entry ⟨c, hc⟩ ⟨r, hr⟩ := by
  simp [matrixOf]

/-- `Load(Store(s)) = s`. -/
@[simp] theorem load_store {nb : WordCount} (s : Matrix nb) : load (store s) = s := by
  ext c hc r hr : 2
  have h1 : (r + 4 * c) / 4 = c := by omega
  have h2 : r % 4 = r := by omega
  simp [load, store, h1, h2]

/-- `Store(Load(X)) = X` (R140). -/
@[simp] theorem store_load {nb : WordCount} (x : Bytes (blockBytes nb)) : store (load x) = x := by
  ext k hk : 1
  have h : k % 4 + 4 * (k / 4) = k := Nat.mod_add_div k 4
  simp [load, store, h]

end Sys2Proof.Machine
end

