-- ==== Sys2Proof/Laws/Encoding.lean ====
section
/-! SUPPORT. Fields and words of a command are two views of one value. -/

namespace Sys2Proof

/-- The fields of a word made of fields are those fields (R61, R67). -/
@[simp] theorem fieldsOf_wordOf (f : Fields) : fieldsOf (wordOf f) = f := by
  obtain ⟨op, a, b, m⟩ := f
  simp only [fieldsOf, wordOf, Fields.mk.injEq]
  refine ⟨?_, ?_, ?_, ?_⟩ <;> (ext i hi; simp; try grind)

/-- The word made of a word's fields is that word (R61, R67): no bit is dropped. -/
@[simp] theorem wordOf_fieldsOf (w : CommandWord) : wordOf (fieldsOf w) = w := by
  simp only [fieldsOf, wordOf]
  ext i hi
  simp
  grind

/-- A reserved-field check answers the command exactly where the fields are zero (R63). -/
theorem ifReservedZero_ok {z : Bool} {i j : Instr} : ifReservedZero z i = .ok j ↔ z = true ∧ i = j := by
  cases z <;> simp [ifReservedZero]

end Sys2Proof
end

