-- ==== Sys2Proof/Laws/State.lean ====
section
/-! SUPPORT. One lemma per field per shared update of `State`, true by `rfl`, so that no proof unfolds a record update. -/

namespace Sys2Proof.Machine

variable (s : State)

/-! `State.answer` -/

@[simp] theorem State.answer_res (v : Byte) : (s.answer v).res = v := rfl
@[simp] theorem State.answer_err (v : Byte) : (s.answer v).err = 0x00 := rfl
@[simp] theorem State.answer_eflags (v : Byte) : (s.answer v).eflags = s.eflags := rfl
@[simp] theorem State.answer_cfgValid (v : Byte) : (s.answer v).cfgValid = s.cfgValid := rfl
@[simp] theorem State.answer_nk (v : Byte) : (s.answer v).nk = s.nk := rfl
@[simp] theorem State.answer_nb (v : Byte) : (s.answer v).nb = s.nb := rfl
@[simp] theorem State.answer_modulus (v : Byte) : (s.answer v).modulus = s.modulus := rfl
@[simp] theorem State.answer_nr (v : Byte) : (s.answer v).nr = s.nr := rfl
@[simp] theorem State.answer_sbValid (v : Byte) : (s.answer v).sbValid = s.sbValid := rfl
@[simp] theorem State.answer_sbf (v : Byte) : (s.answer v).sbf = s.sbf := rfl
@[simp] theorem State.answer_sbi (v : Byte) : (s.answer v).sbi = s.sbi := rfl
@[simp] theorem State.answer_ksValid (v : Byte) : (s.answer v).ksValid = s.ksValid := rfl
@[simp] theorem State.answer_w (v : Byte) : (s.answer v).w = s.w := rfl
@[simp] theorem State.answer_ctxValid (v : Byte) : (s.answer v).ctxValid = s.ctxValid := rfl
@[simp] theorem State.answer_mode (v : Byte) : (s.answer v).mode = s.mode := rfl
@[simp] theorem State.answer_padsel (v : Byte) : (s.answer v).padsel = s.padsel := rfl
@[simp] theorem State.answer_ivlen (v : Byte) : (s.answer v).ivlen = s.ivlen := rfl
@[simp] theorem State.answer_ivPresent (v : Byte) : (s.answer v).ivPresent = s.ivPresent := rfl
@[simp] theorem State.answer_run (v : Byte) : (s.answer v).run = s.run := rfl
@[simp] theorem State.answer_dir (v : Byte) : (s.answer v).dir = s.dir := rfl
@[simp] theorem State.answer_fb0 (v : Byte) : (s.answer v).fb0 = s.fb0 := rfl
@[simp] theorem State.answer_fb1 (v : Byte) : (s.answer v).fb1 = s.fb1 := rfl
@[simp] theorem State.answer_blkcnt (v : Byte) : (s.answer v).blkcnt = s.blkcnt := rfl
@[simp] theorem State.answer_mem (v : Byte) : (s.answer v).mem = s.mem := rfl
@[simp] theorem State.answer_host (v : Byte) : (s.answer v).host = s.host := rfl
@[simp] theorem State.answer_draws (v : Byte) : (s.answer v).draws = s.draws := rfl

/-! `State.raise` -/

@[simp] theorem State.raise_res (e : ErrorName) : (s.raise e).res = 0x00 := rfl
@[simp] theorem State.raise_err (e : ErrorName) : (s.raise e).err = e.code := rfl
@[simp] theorem State.raise_eflags (e : ErrorName) : (s.raise e).eflags = stickyFlags s.eflags e := rfl
@[simp] theorem State.raise_cfgValid (e : ErrorName) : (s.raise e).cfgValid = s.cfgValid := rfl
@[simp] theorem State.raise_nk (e : ErrorName) : (s.raise e).nk = s.nk := rfl
@[simp] theorem State.raise_nb (e : ErrorName) : (s.raise e).nb = s.nb := rfl
@[simp] theorem State.raise_modulus (e : ErrorName) : (s.raise e).modulus = s.modulus := rfl
@[simp] theorem State.raise_nr (e : ErrorName) : (s.raise e).nr = s.nr := rfl
@[simp] theorem State.raise_sbValid (e : ErrorName) : (s.raise e).sbValid = s.sbValid := rfl
@[simp] theorem State.raise_sbf (e : ErrorName) : (s.raise e).sbf = s.sbf := rfl
@[simp] theorem State.raise_sbi (e : ErrorName) : (s.raise e).sbi = s.sbi := rfl
@[simp] theorem State.raise_ksValid (e : ErrorName) : (s.raise e).ksValid = s.ksValid := rfl
@[simp] theorem State.raise_w (e : ErrorName) : (s.raise e).w = s.w := rfl
@[simp] theorem State.raise_ctxValid (e : ErrorName) : (s.raise e).ctxValid = s.ctxValid := rfl
@[simp] theorem State.raise_mode (e : ErrorName) : (s.raise e).mode = s.mode := rfl
@[simp] theorem State.raise_padsel (e : ErrorName) : (s.raise e).padsel = s.padsel := rfl
@[simp] theorem State.raise_ivlen (e : ErrorName) : (s.raise e).ivlen = s.ivlen := rfl
@[simp] theorem State.raise_ivPresent (e : ErrorName) : (s.raise e).ivPresent = s.ivPresent := rfl
@[simp] theorem State.raise_run (e : ErrorName) : (s.raise e).run = s.run := rfl
@[simp] theorem State.raise_dir (e : ErrorName) : (s.raise e).dir = s.dir := rfl
@[simp] theorem State.raise_fb0 (e : ErrorName) : (s.raise e).fb0 = s.fb0 := rfl
@[simp] theorem State.raise_fb1 (e : ErrorName) : (s.raise e).fb1 = s.fb1 := rfl
@[simp] theorem State.raise_blkcnt (e : ErrorName) : (s.raise e).blkcnt = s.blkcnt := rfl
@[simp] theorem State.raise_mem (e : ErrorName) : (s.raise e).mem = s.mem := rfl
@[simp] theorem State.raise_host (e : ErrorName) : (s.raise e).host = s.host := rfl
@[simp] theorem State.raise_draws (e : ErrorName) : (s.raise e).draws = s.draws := rfl

/-! `State.setByte` -/

@[simp] theorem State.setByte_res (b : Buffer) (idx : Nat) (v : Byte) : (s.setByte b idx v).res = s.res := rfl
@[simp] theorem State.setByte_err (b : Buffer) (idx : Nat) (v : Byte) : (s.setByte b idx v).err = s.err := rfl
@[simp] theorem State.setByte_eflags (b : Buffer) (idx : Nat) (v : Byte) : (s.setByte b idx v).eflags = s.eflags := rfl
@[simp] theorem State.setByte_cfgValid (b : Buffer) (idx : Nat) (v : Byte) : (s.setByte b idx v).cfgValid = s.cfgValid := rfl
@[simp] theorem State.setByte_nk (b : Buffer) (idx : Nat) (v : Byte) : (s.setByte b idx v).nk = s.nk := rfl
@[simp] theorem State.setByte_nb (b : Buffer) (idx : Nat) (v : Byte) : (s.setByte b idx v).nb = s.nb := rfl
@[simp] theorem State.setByte_modulus (b : Buffer) (idx : Nat) (v : Byte) : (s.setByte b idx v).modulus = s.modulus := rfl
@[simp] theorem State.setByte_nr (b : Buffer) (idx : Nat) (v : Byte) : (s.setByte b idx v).nr = s.nr := rfl
@[simp] theorem State.setByte_sbValid (b : Buffer) (idx : Nat) (v : Byte) : (s.setByte b idx v).sbValid = s.sbValid := rfl
@[simp] theorem State.setByte_sbf (b : Buffer) (idx : Nat) (v : Byte) : (s.setByte b idx v).sbf = s.sbf := rfl
@[simp] theorem State.setByte_sbi (b : Buffer) (idx : Nat) (v : Byte) : (s.setByte b idx v).sbi = s.sbi := rfl
@[simp] theorem State.setByte_ksValid (b : Buffer) (idx : Nat) (v : Byte) : (s.setByte b idx v).ksValid = s.ksValid := rfl
@[simp] theorem State.setByte_w (b : Buffer) (idx : Nat) (v : Byte) : (s.setByte b idx v).w = s.w := rfl
@[simp] theorem State.setByte_ctxValid (b : Buffer) (idx : Nat) (v : Byte) : (s.setByte b idx v).ctxValid = s.ctxValid := rfl
@[simp] theorem State.setByte_mode (b : Buffer) (idx : Nat) (v : Byte) : (s.setByte b idx v).mode = s.mode := rfl
@[simp] theorem State.setByte_padsel (b : Buffer) (idx : Nat) (v : Byte) : (s.setByte b idx v).padsel = s.padsel := rfl
@[simp] theorem State.setByte_ivlen (b : Buffer) (idx : Nat) (v : Byte) : (s.setByte b idx v).ivlen = s.ivlen := rfl
@[simp] theorem State.setByte_ivPresent (b : Buffer) (idx : Nat) (v : Byte) :
    (s.setByte b idx v).ivPresent =
      s.ivPresent := rfl
@[simp] theorem State.setByte_run (b : Buffer) (idx : Nat) (v : Byte) : (s.setByte b idx v).run = s.run := rfl
@[simp] theorem State.setByte_dir (b : Buffer) (idx : Nat) (v : Byte) : (s.setByte b idx v).dir = s.dir := rfl
@[simp] theorem State.setByte_fb0 (b : Buffer) (idx : Nat) (v : Byte) : (s.setByte b idx v).fb0 = s.fb0 := rfl
@[simp] theorem State.setByte_fb1 (b : Buffer) (idx : Nat) (v : Byte) : (s.setByte b idx v).fb1 = s.fb1 := rfl
@[simp] theorem State.setByte_blkcnt (b : Buffer) (idx : Nat) (v : Byte) : (s.setByte b idx v).blkcnt = s.blkcnt := rfl
@[simp] theorem State.setByte_mem (b : Buffer) (idx : Nat) (v : Byte) :
    (s.setByte b idx v).mem =
      s.mem.write (b.addr idx) v := rfl
@[simp] theorem State.setByte_host (b : Buffer) (idx : Nat) (v : Byte) : (s.setByte b idx v).host = s.host := rfl
@[simp] theorem State.setByte_draws (b : Buffer) (idx : Nat) (v : Byte) : (s.setByte b idx v).draws = s.draws := rfl

/-! `State.setBytes` -/

@[simp] theorem State.setBytes_res (b : Buffer) (idx : Nat) (vs : List Byte) : (s.setBytes b idx vs).res = s.res := rfl
@[simp] theorem State.setBytes_err (b : Buffer) (idx : Nat) (vs : List Byte) : (s.setBytes b idx vs).err = s.err := rfl
@[simp] theorem State.setBytes_eflags (b : Buffer) (idx : Nat) (vs : List Byte) :
    (s.setBytes b idx vs).eflags =
      s.eflags := rfl
@[simp] theorem State.setBytes_cfgValid (b : Buffer) (idx : Nat) (vs : List Byte) :
    (s.setBytes b idx vs).cfgValid =
      s.cfgValid := rfl
@[simp] theorem State.setBytes_nk (b : Buffer) (idx : Nat) (vs : List Byte) : (s.setBytes b idx vs).nk = s.nk := rfl
@[simp] theorem State.setBytes_nb (b : Buffer) (idx : Nat) (vs : List Byte) : (s.setBytes b idx vs).nb = s.nb := rfl
@[simp] theorem State.setBytes_modulus (b : Buffer) (idx : Nat) (vs : List Byte) :
    (s.setBytes b idx vs).modulus =
      s.modulus := rfl
@[simp] theorem State.setBytes_nr (b : Buffer) (idx : Nat) (vs : List Byte) : (s.setBytes b idx vs).nr = s.nr := rfl
@[simp] theorem State.setBytes_sbValid (b : Buffer) (idx : Nat) (vs : List Byte) :
    (s.setBytes b idx vs).sbValid =
      s.sbValid := rfl
@[simp] theorem State.setBytes_sbf (b : Buffer) (idx : Nat) (vs : List Byte) : (s.setBytes b idx vs).sbf = s.sbf := rfl
@[simp] theorem State.setBytes_sbi (b : Buffer) (idx : Nat) (vs : List Byte) : (s.setBytes b idx vs).sbi = s.sbi := rfl
@[simp] theorem State.setBytes_ksValid (b : Buffer) (idx : Nat) (vs : List Byte) :
    (s.setBytes b idx vs).ksValid =
      s.ksValid := rfl
@[simp] theorem State.setBytes_w (b : Buffer) (idx : Nat) (vs : List Byte) : (s.setBytes b idx vs).w = s.w := rfl
@[simp] theorem State.setBytes_ctxValid (b : Buffer) (idx : Nat) (vs : List Byte) :
    (s.setBytes b idx vs).ctxValid =
      s.ctxValid := rfl
@[simp] theorem State.setBytes_mode (b : Buffer) (idx : Nat) (vs : List Byte) : (s.setBytes b idx vs).mode = s.mode := rfl
@[simp] theorem State.setBytes_padsel (b : Buffer) (idx : Nat) (vs : List Byte) :
    (s.setBytes b idx vs).padsel =
      s.padsel := rfl
@[simp] theorem State.setBytes_ivlen (b : Buffer) (idx : Nat) (vs : List Byte) : (s.setBytes b idx vs).ivlen = s.ivlen := rfl
@[simp] theorem State.setBytes_ivPresent (b : Buffer) (idx : Nat) (vs : List Byte) :
    (s.setBytes b idx vs).ivPresent =
      s.ivPresent := rfl
@[simp] theorem State.setBytes_run (b : Buffer) (idx : Nat) (vs : List Byte) : (s.setBytes b idx vs).run = s.run := rfl
@[simp] theorem State.setBytes_dir (b : Buffer) (idx : Nat) (vs : List Byte) : (s.setBytes b idx vs).dir = s.dir := rfl
@[simp] theorem State.setBytes_fb0 (b : Buffer) (idx : Nat) (vs : List Byte) : (s.setBytes b idx vs).fb0 = s.fb0 := rfl
@[simp] theorem State.setBytes_fb1 (b : Buffer) (idx : Nat) (vs : List Byte) : (s.setBytes b idx vs).fb1 = s.fb1 := rfl
@[simp] theorem State.setBytes_blkcnt (b : Buffer) (idx : Nat) (vs : List Byte) :
    (s.setBytes b idx vs).blkcnt =
      s.blkcnt := rfl
@[simp] theorem State.setBytes_mem (b : Buffer) (idx : Nat) (vs : List Byte) :
    (s.setBytes b idx vs).mem =
      s.mem.writeRange (b.addr idx) vs := rfl
@[simp] theorem State.setBytes_host (b : Buffer) (idx : Nat) (vs : List Byte) : (s.setBytes b idx vs).host = s.host := rfl
@[simp] theorem State.setBytes_draws (b : Buffer) (idx : Nat) (vs : List Byte) : (s.setBytes b idx vs).draws = s.draws := rfl

/-! `State.setDout` -/

@[simp] theorem State.setDout_res {n : Nat} (y : Bytes n) : (s.setDout y).res = s.res := rfl
@[simp] theorem State.setDout_err {n : Nat} (y : Bytes n) : (s.setDout y).err = s.err := rfl
@[simp] theorem State.setDout_eflags {n : Nat} (y : Bytes n) : (s.setDout y).eflags = s.eflags := rfl
@[simp] theorem State.setDout_cfgValid {n : Nat} (y : Bytes n) : (s.setDout y).cfgValid = s.cfgValid := rfl
@[simp] theorem State.setDout_nk {n : Nat} (y : Bytes n) : (s.setDout y).nk = s.nk := rfl
@[simp] theorem State.setDout_nb {n : Nat} (y : Bytes n) : (s.setDout y).nb = s.nb := rfl
@[simp] theorem State.setDout_modulus {n : Nat} (y : Bytes n) : (s.setDout y).modulus = s.modulus := rfl
@[simp] theorem State.setDout_nr {n : Nat} (y : Bytes n) : (s.setDout y).nr = s.nr := rfl
@[simp] theorem State.setDout_sbValid {n : Nat} (y : Bytes n) : (s.setDout y).sbValid = s.sbValid := rfl
@[simp] theorem State.setDout_sbf {n : Nat} (y : Bytes n) : (s.setDout y).sbf = s.sbf := rfl
@[simp] theorem State.setDout_sbi {n : Nat} (y : Bytes n) : (s.setDout y).sbi = s.sbi := rfl
@[simp] theorem State.setDout_ksValid {n : Nat} (y : Bytes n) : (s.setDout y).ksValid = s.ksValid := rfl
@[simp] theorem State.setDout_w {n : Nat} (y : Bytes n) : (s.setDout y).w = s.w := rfl
@[simp] theorem State.setDout_ctxValid {n : Nat} (y : Bytes n) : (s.setDout y).ctxValid = s.ctxValid := rfl
@[simp] theorem State.setDout_mode {n : Nat} (y : Bytes n) : (s.setDout y).mode = s.mode := rfl
@[simp] theorem State.setDout_padsel {n : Nat} (y : Bytes n) : (s.setDout y).padsel = s.padsel := rfl
@[simp] theorem State.setDout_ivlen {n : Nat} (y : Bytes n) : (s.setDout y).ivlen = s.ivlen := rfl
@[simp] theorem State.setDout_ivPresent {n : Nat} (y : Bytes n) : (s.setDout y).ivPresent = s.ivPresent := rfl
@[simp] theorem State.setDout_run {n : Nat} (y : Bytes n) : (s.setDout y).run = s.run := rfl
@[simp] theorem State.setDout_dir {n : Nat} (y : Bytes n) : (s.setDout y).dir = s.dir := rfl
@[simp] theorem State.setDout_fb0 {n : Nat} (y : Bytes n) : (s.setDout y).fb0 = s.fb0 := rfl
@[simp] theorem State.setDout_fb1 {n : Nat} (y : Bytes n) : (s.setDout y).fb1 = s.fb1 := rfl
@[simp] theorem State.setDout_blkcnt {n : Nat} (y : Bytes n) : (s.setDout y).blkcnt = s.blkcnt := rfl
@[simp] theorem State.setDout_mem {n : Nat} (y : Bytes n) :
    (s.setDout y).mem =
      s.mem.writeRange (Buffer.dout.addr 0) (y.toList ++ List.replicate (bufferSize - n) 0x00) := rfl
@[simp] theorem State.setDout_host {n : Nat} (y : Bytes n) : (s.setDout y).host = s.host := rfl
@[simp] theorem State.setDout_draws {n : Nat} (y : Bytes n) : (s.setDout y).draws = s.draws := rfl

/-! `State.configure` -/

@[simp] theorem State.configure_res (nk nb : WordCount) (m : Byte) : (s.configure nk nb m).res = s.res := rfl
@[simp] theorem State.configure_err (nk nb : WordCount) (m : Byte) : (s.configure nk nb m).err = s.err := rfl
@[simp] theorem State.configure_eflags (nk nb : WordCount) (m : Byte) : (s.configure nk nb m).eflags = s.eflags := rfl
@[simp] theorem State.configure_cfgValid (nk nb : WordCount) (m : Byte) : (s.configure nk nb m).cfgValid = true := rfl
@[simp] theorem State.configure_nk (nk nb : WordCount) (m : Byte) : (s.configure nk nb m).nk = nk := rfl
@[simp] theorem State.configure_nb (nk nb : WordCount) (m : Byte) : (s.configure nk nb m).nb = nb := rfl
@[simp] theorem State.configure_modulus (nk nb : WordCount) (m : Byte) : (s.configure nk nb m).modulus = m := rfl
@[simp] theorem State.configure_nr (nk nb : WordCount) (m : Byte) : (s.configure nk nb m).nr = rounds nk nb := rfl
@[simp] theorem State.configure_sbValid (nk nb : WordCount) (m : Byte) : (s.configure nk nb m).sbValid = false := rfl
@[simp] theorem State.configure_sbf (nk nb : WordCount) (m : Byte) : (s.configure nk nb m).sbf = s.sbf := rfl
@[simp] theorem State.configure_sbi (nk nb : WordCount) (m : Byte) : (s.configure nk nb m).sbi = s.sbi := rfl
@[simp] theorem State.configure_ksValid (nk nb : WordCount) (m : Byte) : (s.configure nk nb m).ksValid = false := rfl
@[simp] theorem State.configure_w (nk nb : WordCount) (m : Byte) : (s.configure nk nb m).w = s.w := rfl
@[simp] theorem State.configure_ctxValid (nk nb : WordCount) (m : Byte) : (s.configure nk nb m).ctxValid = false := rfl
@[simp] theorem State.configure_mode (nk nb : WordCount) (m : Byte) : (s.configure nk nb m).mode = s.mode := rfl
@[simp] theorem State.configure_padsel (nk nb : WordCount) (m : Byte) : (s.configure nk nb m).padsel = s.padsel := rfl
@[simp] theorem State.configure_ivlen (nk nb : WordCount) (m : Byte) : (s.configure nk nb m).ivlen = s.ivlen := rfl
@[simp] theorem State.configure_ivPresent (nk nb : WordCount) (m : Byte) :
    (s.configure nk nb m).ivPresent =
      s.ivPresent := rfl
@[simp] theorem State.configure_run (nk nb : WordCount) (m : Byte) : (s.configure nk nb m).run = false := rfl
@[simp] theorem State.configure_dir (nk nb : WordCount) (m : Byte) : (s.configure nk nb m).dir = s.dir := rfl
@[simp] theorem State.configure_fb0 (nk nb : WordCount) (m : Byte) : (s.configure nk nb m).fb0 = s.fb0 := rfl
@[simp] theorem State.configure_fb1 (nk nb : WordCount) (m : Byte) : (s.configure nk nb m).fb1 = s.fb1 := rfl
@[simp] theorem State.configure_blkcnt (nk nb : WordCount) (m : Byte) : (s.configure nk nb m).blkcnt = s.blkcnt := rfl
@[simp] theorem State.configure_mem (nk nb : WordCount) (m : Byte) : (s.configure nk nb m).mem = s.mem := rfl
@[simp] theorem State.configure_host (nk nb : WordCount) (m : Byte) : (s.configure nk nb m).host = s.host := rfl
@[simp] theorem State.configure_draws (nk nb : WordCount) (m : Byte) : (s.configure nk nb m).draws = s.draws := rfl

/-! `State.toReset` -/

@[simp] theorem State.toReset_res : (s.toReset).res = State.reset.res := rfl
@[simp] theorem State.toReset_err : (s.toReset).err = State.reset.err := rfl
@[simp] theorem State.toReset_eflags : (s.toReset).eflags = State.reset.eflags := rfl
@[simp] theorem State.toReset_cfgValid : (s.toReset).cfgValid = State.reset.cfgValid := rfl
@[simp] theorem State.toReset_nk : (s.toReset).nk = State.reset.nk := rfl
@[simp] theorem State.toReset_nb : (s.toReset).nb = State.reset.nb := rfl
@[simp] theorem State.toReset_modulus : (s.toReset).modulus = State.reset.modulus := rfl
@[simp] theorem State.toReset_nr : (s.toReset).nr = State.reset.nr := rfl
@[simp] theorem State.toReset_sbValid : (s.toReset).sbValid = State.reset.sbValid := rfl
@[simp] theorem State.toReset_sbf : (s.toReset).sbf = State.reset.sbf := rfl
@[simp] theorem State.toReset_sbi : (s.toReset).sbi = State.reset.sbi := rfl
@[simp] theorem State.toReset_ksValid : (s.toReset).ksValid = State.reset.ksValid := rfl
@[simp] theorem State.toReset_w : (s.toReset).w = State.reset.w := rfl
@[simp] theorem State.toReset_ctxValid : (s.toReset).ctxValid = State.reset.ctxValid := rfl
@[simp] theorem State.toReset_mode : (s.toReset).mode = State.reset.mode := rfl
@[simp] theorem State.toReset_padsel : (s.toReset).padsel = State.reset.padsel := rfl
@[simp] theorem State.toReset_ivlen : (s.toReset).ivlen = State.reset.ivlen := rfl
@[simp] theorem State.toReset_ivPresent : (s.toReset).ivPresent = State.reset.ivPresent := rfl
@[simp] theorem State.toReset_run : (s.toReset).run = State.reset.run := rfl
@[simp] theorem State.toReset_dir : (s.toReset).dir = State.reset.dir := rfl
@[simp] theorem State.toReset_fb0 : (s.toReset).fb0 = State.reset.fb0 := rfl
@[simp] theorem State.toReset_fb1 : (s.toReset).fb1 = State.reset.fb1 := rfl
@[simp] theorem State.toReset_blkcnt : (s.toReset).blkcnt = State.reset.blkcnt := rfl
@[simp] theorem State.toReset_mem : (s.toReset).mem = State.reset.mem := rfl
@[simp] theorem State.toReset_host : (s.toReset).host = s.host := rfl
@[simp] theorem State.toReset_draws : (s.toReset).draws = s.draws := rfl

/-! `State.padded` -/

@[simp] theorem State.padded_res (p : Padding) (n : Nat) : (s.padded p n).res = s.res := rfl
@[simp] theorem State.padded_err (p : Padding) (n : Nat) : (s.padded p n).err = s.err := rfl
@[simp] theorem State.padded_eflags (p : Padding) (n : Nat) : (s.padded p n).eflags = s.eflags := rfl
@[simp] theorem State.padded_cfgValid (p : Padding) (n : Nat) : (s.padded p n).cfgValid = s.cfgValid := rfl
@[simp] theorem State.padded_nk (p : Padding) (n : Nat) : (s.padded p n).nk = s.nk := rfl
@[simp] theorem State.padded_nb (p : Padding) (n : Nat) : (s.padded p n).nb = s.nb := rfl
@[simp] theorem State.padded_modulus (p : Padding) (n : Nat) : (s.padded p n).modulus = s.modulus := rfl
@[simp] theorem State.padded_nr (p : Padding) (n : Nat) : (s.padded p n).nr = s.nr := rfl
@[simp] theorem State.padded_sbValid (p : Padding) (n : Nat) : (s.padded p n).sbValid = s.sbValid := rfl
@[simp] theorem State.padded_sbf (p : Padding) (n : Nat) : (s.padded p n).sbf = s.sbf := rfl
@[simp] theorem State.padded_sbi (p : Padding) (n : Nat) : (s.padded p n).sbi = s.sbi := rfl
@[simp] theorem State.padded_ksValid (p : Padding) (n : Nat) : (s.padded p n).ksValid = s.ksValid := rfl
@[simp] theorem State.padded_w (p : Padding) (n : Nat) : (s.padded p n).w = s.w := rfl
@[simp] theorem State.padded_ctxValid (p : Padding) (n : Nat) : (s.padded p n).ctxValid = s.ctxValid := rfl
@[simp] theorem State.padded_mode (p : Padding) (n : Nat) : (s.padded p n).mode = s.mode := rfl
@[simp] theorem State.padded_padsel (p : Padding) (n : Nat) : (s.padded p n).padsel = s.padsel := rfl
@[simp] theorem State.padded_ivlen (p : Padding) (n : Nat) : (s.padded p n).ivlen = s.ivlen := rfl
@[simp] theorem State.padded_ivPresent (p : Padding) (n : Nat) : (s.padded p n).ivPresent = s.ivPresent := rfl
@[simp] theorem State.padded_run (p : Padding) (n : Nat) : (s.padded p n).run = s.run := rfl
@[simp] theorem State.padded_dir (p : Padding) (n : Nat) : (s.padded p n).dir = s.dir := rfl
@[simp] theorem State.padded_fb0 (p : Padding) (n : Nat) : (s.padded p n).fb0 = s.fb0 := rfl
@[simp] theorem State.padded_fb1 (p : Padding) (n : Nat) : (s.padded p n).fb1 = s.fb1 := rfl
@[simp] theorem State.padded_blkcnt (p : Padding) (n : Nat) : (s.padded p n).blkcnt = s.blkcnt := rfl
@[simp] theorem State.padded_mem (p : Padding) (n : Nat) :
    (s.padded p n).mem =
      s.mem.writeRange (Buffer.din.addr n) (padBytes p (blockBytes s.nb - n) s.draws) := rfl
@[simp] theorem State.padded_host (p : Padding) (n : Nat) : (s.padded p n).host = s.host := rfl
@[simp] theorem State.padded_draws (p : Padding) (n : Nat) : (s.padded p n).draws = s.draws + drawsOf p := rfl

/-! `State.afterBlock` -/

@[simp] theorem State.afterBlock_res (mode : Mode) : (s.afterBlock mode).res = s.res := by
  simp only [State.afterBlock, State.setDout_res]
@[simp] theorem State.afterBlock_err (mode : Mode) : (s.afterBlock mode).err = s.err := by
  simp only [State.afterBlock, State.setDout_err]
@[simp] theorem State.afterBlock_eflags (mode : Mode) : (s.afterBlock mode).eflags = s.eflags := by
  simp only [State.afterBlock, State.setDout_eflags]
@[simp] theorem State.afterBlock_cfgValid (mode : Mode) : (s.afterBlock mode).cfgValid = s.cfgValid := by
  simp only [State.afterBlock, State.setDout_cfgValid]
@[simp] theorem State.afterBlock_nk (mode : Mode) : (s.afterBlock mode).nk = s.nk := by
  simp only [State.afterBlock, State.setDout_nk]
@[simp] theorem State.afterBlock_nb (mode : Mode) : (s.afterBlock mode).nb = s.nb := by
  simp only [State.afterBlock, State.setDout_nb]
@[simp] theorem State.afterBlock_modulus (mode : Mode) : (s.afterBlock mode).modulus = s.modulus := by
  simp only [State.afterBlock, State.setDout_modulus]
@[simp] theorem State.afterBlock_nr (mode : Mode) : (s.afterBlock mode).nr = s.nr := by
  simp only [State.afterBlock, State.setDout_nr]
@[simp] theorem State.afterBlock_sbValid (mode : Mode) : (s.afterBlock mode).sbValid = s.sbValid := by
  simp only [State.afterBlock, State.setDout_sbValid]
@[simp] theorem State.afterBlock_sbf (mode : Mode) : (s.afterBlock mode).sbf = s.sbf := by
  simp only [State.afterBlock, State.setDout_sbf]
@[simp] theorem State.afterBlock_sbi (mode : Mode) : (s.afterBlock mode).sbi = s.sbi := by
  simp only [State.afterBlock, State.setDout_sbi]
@[simp] theorem State.afterBlock_ksValid (mode : Mode) : (s.afterBlock mode).ksValid = s.ksValid := by
  simp only [State.afterBlock, State.setDout_ksValid]
@[simp] theorem State.afterBlock_w (mode : Mode) : (s.afterBlock mode).w = s.w := by
  simp only [State.afterBlock, State.setDout_w]
@[simp] theorem State.afterBlock_ctxValid (mode : Mode) : (s.afterBlock mode).ctxValid = s.ctxValid := by
  simp only [State.afterBlock, State.setDout_ctxValid]
@[simp] theorem State.afterBlock_mode (mode : Mode) : (s.afterBlock mode).mode = s.mode := by
  simp only [State.afterBlock, State.setDout_mode]
@[simp] theorem State.afterBlock_padsel (mode : Mode) : (s.afterBlock mode).padsel = s.padsel := by
  simp only [State.afterBlock, State.setDout_padsel]
@[simp] theorem State.afterBlock_ivlen (mode : Mode) : (s.afterBlock mode).ivlen = s.ivlen := by
  simp only [State.afterBlock, State.setDout_ivlen]
@[simp] theorem State.afterBlock_ivPresent (mode : Mode) : (s.afterBlock mode).ivPresent = s.ivPresent := by
  simp only [State.afterBlock, State.setDout_ivPresent]
@[simp] theorem State.afterBlock_run (mode : Mode) : (s.afterBlock mode).run = s.run := by
  simp only [State.afterBlock, State.setDout_run]
@[simp] theorem State.afterBlock_dir (mode : Mode) : (s.afterBlock mode).dir = s.dir := by
  simp only [State.afterBlock, State.setDout_dir]
@[simp] theorem State.afterBlock_fb0 (mode : Mode) :
    (s.afterBlock mode).fb0 =
      setFirstBytes s.fb0 (modeStep mode s.dir s.encrypt s.decrypt s.inputBlock s.feedback s.blkcnt).2.1 := by
  simp only [State.afterBlock]
@[simp] theorem State.afterBlock_fb1 (mode : Mode) :
    (s.afterBlock mode).fb1 =
      setFirstBytes s.fb1 (modeStep mode s.dir s.encrypt s.decrypt s.inputBlock s.feedback s.blkcnt).2.2 := by
  simp only [State.afterBlock]
@[simp] theorem State.afterBlock_blkcnt (mode : Mode) : (s.afterBlock mode).blkcnt = s.blkcnt + 1 := by
  simp only [State.afterBlock]
@[simp] theorem State.afterBlock_mem (mode : Mode) :
    (s.afterBlock mode).mem =
      (s.setDout (modeStep mode s.dir s.encrypt s.decrypt s.inputBlock s.feedback s.blkcnt).1).mem := by
  simp only [State.afterBlock]
@[simp] theorem State.afterBlock_host (mode : Mode) : (s.afterBlock mode).host = s.host := by
  simp only [State.afterBlock, State.setDout_host]
@[simp] theorem State.afterBlock_draws (mode : Mode) : (s.afterBlock mode).draws = s.draws := by
  simp only [State.afterBlock, State.setDout_draws]

/-! `State.initFeedback` writes `fb0` and `fb1` alone. -/

@[simp] theorem State.initFeedback_res (mode : Mode) : (s.initFeedback mode).res = s.res := by
  cases mode <;> simp only [State.initFeedback]
@[simp] theorem State.initFeedback_err (mode : Mode) : (s.initFeedback mode).err = s.err := by
  cases mode <;> simp only [State.initFeedback]
@[simp] theorem State.initFeedback_eflags (mode : Mode) : (s.initFeedback mode).eflags = s.eflags := by
  cases mode <;> simp only [State.initFeedback]
@[simp] theorem State.initFeedback_cfgValid (mode : Mode) : (s.initFeedback mode).cfgValid = s.cfgValid := by
  cases mode <;> simp only [State.initFeedback]
@[simp] theorem State.initFeedback_nk (mode : Mode) : (s.initFeedback mode).nk = s.nk := by
  cases mode <;> simp only [State.initFeedback]
@[simp] theorem State.initFeedback_nb (mode : Mode) : (s.initFeedback mode).nb = s.nb := by
  cases mode <;> simp only [State.initFeedback]
@[simp] theorem State.initFeedback_modulus (mode : Mode) : (s.initFeedback mode).modulus = s.modulus := by
  cases mode <;> simp only [State.initFeedback]
@[simp] theorem State.initFeedback_nr (mode : Mode) : (s.initFeedback mode).nr = s.nr := by
  cases mode <;> simp only [State.initFeedback]
@[simp] theorem State.initFeedback_sbValid (mode : Mode) : (s.initFeedback mode).sbValid = s.sbValid := by
  cases mode <;> simp only [State.initFeedback]
@[simp] theorem State.initFeedback_sbf (mode : Mode) : (s.initFeedback mode).sbf = s.sbf := by
  cases mode <;> simp only [State.initFeedback]
@[simp] theorem State.initFeedback_sbi (mode : Mode) : (s.initFeedback mode).sbi = s.sbi := by
  cases mode <;> simp only [State.initFeedback]
@[simp] theorem State.initFeedback_ksValid (mode : Mode) : (s.initFeedback mode).ksValid = s.ksValid := by
  cases mode <;> simp only [State.initFeedback]
@[simp] theorem State.initFeedback_w (mode : Mode) : (s.initFeedback mode).w = s.w := by
  cases mode <;> simp only [State.initFeedback]
@[simp] theorem State.initFeedback_ctxValid (mode : Mode) : (s.initFeedback mode).ctxValid = s.ctxValid := by
  cases mode <;> simp only [State.initFeedback]
@[simp] theorem State.initFeedback_mode (mode : Mode) : (s.initFeedback mode).mode = s.mode := by
  cases mode <;> simp only [State.initFeedback]
@[simp] theorem State.initFeedback_padsel (mode : Mode) : (s.initFeedback mode).padsel = s.padsel := by
  cases mode <;> simp only [State.initFeedback]
@[simp] theorem State.initFeedback_ivlen (mode : Mode) : (s.initFeedback mode).ivlen = s.ivlen := by
  cases mode <;> simp only [State.initFeedback]
@[simp] theorem State.initFeedback_ivPresent (mode : Mode) : (s.initFeedback mode).ivPresent = s.ivPresent := by
  cases mode <;> simp only [State.initFeedback]
@[simp] theorem State.initFeedback_run (mode : Mode) : (s.initFeedback mode).run = s.run := by
  cases mode <;> simp only [State.initFeedback]
@[simp] theorem State.initFeedback_dir (mode : Mode) : (s.initFeedback mode).dir = s.dir := by
  cases mode <;> simp only [State.initFeedback]
@[simp] theorem State.initFeedback_blkcnt (mode : Mode) : (s.initFeedback mode).blkcnt = s.blkcnt := by
  cases mode <;> simp only [State.initFeedback]
@[simp] theorem State.initFeedback_mem (mode : Mode) : (s.initFeedback mode).mem = s.mem := by
  cases mode <;> simp only [State.initFeedback]
@[simp] theorem State.initFeedback_host (mode : Mode) : (s.initFeedback mode).host = s.host := by
  cases mode <;> simp only [State.initFeedback]
@[simp] theorem State.initFeedback_draws (mode : Mode) : (s.initFeedback mode).draws = s.draws := by
  cases mode <;> simp only [State.initFeedback]

end Sys2Proof.Machine
end

