-- ==== Sys2Proof/Laws/Ops.lean ====
section
/-! SUPPORT. What each shared operation can do, said once: the checks, the lazy build, the schedule, taking the next host
event and one step. -/

namespace Sys2Proof.Machine

/-- `EnsureSbox` answers a state only in two ways (R105). -/
theorem State.ensureSbox_ok {s t : State} (h : s.ensureSbox = .ok t) :
    (s.sbValid = true ∧ t = s) ∨
    (s.sbValid = false ∧ isIrreducible s.modulus = true ∧
      t = { s with sbf := forwardTable s.modulus, sbi := inverseTable (forwardTable s.modulus), sbValid := true }) := by
  unfold State.ensureSbox at h
  split at h
  · next hv => exact .inl ⟨hv, (Except.ok.inj h).symm⟩
  · next hv =>
    split at h
    · next hi => exact .inr ⟨by simpa using hv, hi, (Except.ok.inj h).symm⟩
    · cases h

/-- `EnsureSbox` raises one error, for a reducible modulus (R104, R105). -/
theorem State.ensureSbox_error {s : State} {e : ErrorName} (h : s.ensureSbox = .error e) :
    e = .cfgModulus ∧ s.sbValid = false ∧ isIrreducible s.modulus = false := by
  unfold State.ensureSbox at h
  split at h
  · cases h
  · next hv =>
    split at h
    · cases h
    · next hi => exact ⟨(Except.error.inj h).symm, by simpa using hv, by simpa using hi⟩

/-- `withSbox` answers a state where the unit is configured and `EnsureSbox` does. -/
theorem State.withSbox_ok {s t : State} (h : s.withSbox = .ok t) : s.cfgValid = true ∧ s.ensureSbox = .ok t := by
  unfold State.withSbox at h
  split at h
  · next hc => exact ⟨hc, h⟩
  · cases h

theorem State.withSbox_error {s : State} {e : ErrorName} (h : s.withSbox = .error e) :
    (s.cfgValid = false ∧ e = .ordNocfg) ∨ (s.cfgValid = true ∧ s.ensureSbox = .error e) := by
  unfold State.withSbox at h
  split at h
  · next hc => exact .inr ⟨hc, h⟩
  · next hc => exact .inl ⟨by simpa using hc, (Except.error.inj h).symm⟩

/-- The checks of `ENCB` and `DECB` pass exactly where the rule runs (R152). -/
theorem State.blockCheck_none {s : State} {len : Byte} :
    s.blockCheck len = none ↔ s.cfgValid = true ∧ s.ksValid = true ∧ len.toNat = blockBytes s.nb := by
  unfold State.blockCheck
  cases s.cfgValid <;> cases s.ksValid <;> simp

theorem State.blockCheck_some {s : State} {len : Byte} {e : ErrorName} (h : s.blockCheck len = some e) :
    (s.cfgValid = false ∧ e = .ordNocfg) ∨ (s.cfgValid = true ∧ s.ksValid = false ∧ e = .ordNokey) ∨
    (s.cfgValid = true ∧ s.ksValid = true ∧ len.toNat ≠ blockBytes s.nb ∧ e = .cfgBlocksize) := by
  revert h
  unfold State.blockCheck
  cases s.cfgValid <;> cases s.ksValid <;> simp <;> grind

/-- The checks that begin `PAD` and `UNPAD` pass exactly where a mode is recognised (R195). -/
theorem State.paddingMode_ok {s : State} {mode : Mode} :
    s.paddingMode = .ok mode ↔ s.cfgValid = true ∧ s.ctxValid = true ∧ modeOf s.mode = some mode := by
  unfold State.paddingMode
  cases s.cfgValid <;> cases s.ctxValid <;> simp
  cases modeOf s.mode <;> simp

theorem State.paddingMode_error {s : State} {e : ErrorName} (h : s.paddingMode = .error e) :
    (s.cfgValid = false ∧ e = .ordNocfg) ∨ (s.cfgValid = true ∧ s.ctxValid = false ∧ e = .ordNoctx) ∨
    (s.cfgValid = true ∧ s.ctxValid = true ∧ modeOf s.mode = none ∧ e = .cfgSelector) := by
  revert h
  unfold State.paddingMode
  cases s.cfgValid <;> cases s.ctxValid <;> simp <;> try exact Eq.symm
  cases modeOf s.mode <;> simp
  exact Eq.symm

/-- A mode is recognised exactly where the selector is at most 6 (R170). -/
theorem modeOf_eq_none (b : Byte) : modeOf b = none ↔ 6 < b.toNat := by
  revert b; decide

theorem modeOf_selector (m : Mode) : modeOf m.selector = some m := by cases m <;> rfl

/-- A padding is recognised exactly where the selector is at most 3 (R170). -/
theorem paddingOf_eq_none (b : Byte) : paddingOf b = none ↔ 3 < b.toNat := by
  revert b; decide

theorem paddingOf_selector (p : Padding) : paddingOf p.selector = some p := by cases p <;> rfl

theorem wordCount_byte (c : WordCount) : wordCount c.byte = some c := by cases c <;> rfl

/-- A word count operand is legal exactly where it is 4, 6 or 8 (R101). -/
theorem wordCount_eq_none (b : Byte) : wordCount b = none ↔ b ≠ 4 ∧ b ≠ 6 ∧ b ≠ 8 := by
  revert b; decide

/-- A pad is as long as asked, when at least one byte is (R195). -/
theorem padBytes_length (p : Padding) (len draw : Nat) (h : 1 ≤ len) : (padBytes p len draw).length = len := by
  cases p <;> simp [padBytes] <;> omega

/-- What one step can do: nothing, a reset, an illegal word's error, or the decoded command. -/
theorem step_cases {s : State} {r : Result} (h : step s = r) :
    (s.host = [] ∧ r = .next s) ∨
    (∃ rest, s.host = .hardwareReset :: rest ∧ r = .next (State.toReset { s with host := rest })) ∨
    (∃ w rest e, s.host = .command w :: rest ∧ decode w = .error e ∧
      r = .next (State.raise .illegal { s with host := rest })) ∨
    (∃ w rest i, s.host = .command w :: rest ∧ decode w = .ok i ∧ r = exec i { s with host := rest }) := by
  subst h
  cases hh : s.host with
  | nil => exact .inl ⟨rfl, by simp [step, State.fetch, hh]⟩
  | cons ev rest =>
    cases ev with
    | hardwareReset => exact .inr (.inl ⟨rest, rfl, by simp [step, State.fetch, hh]⟩)
    | command w =>
      cases hd : decode w with
      | error e => exact .inr (.inr (.inl ⟨w, rest, e, rfl, hd, by simp [step, State.fetch, hh, runWord, hd]⟩))
      | ok i => exact .inr (.inr (.inr ⟨w, rest, i, rfl, hd, by simp [step, State.fetch, hh, runWord, hd]⟩))

/-- The words before the one just written keep their contents. -/
theorem wordAt_set_other (w : Schedule) (i j : Nat) (v : KeyWord) (h : j ≠ i) : wordAt (w.setIfInBounds i v) j = wordAt w j := by
  simp [wordAt, Ne.symm h]

theorem wordAt_set_same (w : Schedule) (i : Nat) (v : KeyWord) (h : i < 120) : wordAt (w.setIfInBounds i v) i = v := by
  simp [wordAt, h]

/-- A word of the schedule depends on two words before it alone. -/
theorem scheduleWord_congr {n : Nat} (nk : Nat) (key : Bytes n) (f : SBox) (m : Byte) (w u : Schedule) (i : Nat)
    (hnk : 1 ≤ nk) (h : ∀ j, j < i → wordAt w j = wordAt u j) : scheduleWord nk key f m w i = scheduleWord nk key f m u i := by
  unfold scheduleWord
  split
  · rfl
  · rw [h (i - nk) (by omega), h (i - 1) (by omega)]

/-- Everything `KeyExpand` does: each of the first `count` words is the one R123 gives from the words before it, and the
words beyond keep their contents. -/
theorem keyExpand_spec {n : Nat} (nk count : Nat) (key : Bytes n) (f : SBox) (m : Byte) (w : Schedule) (hnk : 1 ≤ nk)
    (hc : count ≤ 120) :
    (∀ i, i < count →
      wordAt (keyExpand nk count key f m w) i = scheduleWord nk key f m (keyExpand nk count key f m w) i) ∧
    (∀ i, count ≤ i → wordAt (keyExpand nk count key f m w) i = wordAt w i) := by
  induction count with
  | zero => simp [keyExpand]
  | succ k ih =>
    obtain ⟨ih1, ih2⟩ := ih (by omega)
    have hstep : keyExpand nk (k + 1) key f m w =
        (keyExpand nk k key f m w).setIfInBounds k (scheduleWord nk key f m (keyExpand nk k key f m w) k) := by
      simp [keyExpand, List.range_succ]
    rw [hstep]
    refine ⟨fun i hi => ?_, fun i hi => ?_⟩
    · rw [scheduleWord_congr nk key f m _ (keyExpand nk k key f m w) i hnk
        fun j hj => wordAt_set_other _ _ _ _ (by omega)]
      rcases Nat.lt_succ_iff_lt_or_eq.mp hi with h | rfl
      · rw [wordAt_set_other _ _ _ _ (by omega)]; exact ih1 i h
      · exact wordAt_set_same _ _ _ (by omega)
    · rw [wordAt_set_other _ _ _ _ (by omega)]; exact ih2 i (by omega)

end Sys2Proof.Machine
end

