-- ==== Sys2Proof/Laws/Meanings.lean ====
section
/-! SUPPORT. What each meaning can answer, said once: it raises one of its errors, or it has its effect under its conditions.
Proofs cite these instead of unfolding the meanings. -/

namespace Sys2Proof.Machine

/-- `Raises` is the operation `raise`. -/
theorem raises_iff {i : Instr} {s : State} {e : ErrorName} : Raises i s e.code ↔ exec i s = .next (s.raise e) := Iff.rfl

variable {s t : State}

theorem execGfirrn_next {k : Byte} (h : execGfirrn k s = .next t) :
    (30 ≤ k.toNat ∧ t = s.raise .operand) ∨
    (∃ hk : k.toNat < 30, t = s.answer (irreducibleList[k.toNat]'hk)) := by
  unfold execGfirrn at h
  by_cases hk : k.toNat < 30
  · have hl : irreducibleList[k.toNat]? = some (irreducibleList[k.toNat]'hk) := List.getElem?_eq_getElem hk
    rw [hl] at h
    exact .inr ⟨hk, (Host.Outcome.next.inj h).symm⟩
  · have hl : irreducibleList[k.toNat]? = none := List.getElem?_eq_none (Nat.le_of_not_lt hk)
    rw [hl] at h
    exact .inl ⟨by omega, (Host.Outcome.next.inj h).symm⟩

theorem execCfg_next {nk nb m : Byte} (h : execCfg nk nb m s = .next t) :
    ((wordCount nk = none ∨ wordCount nb = none) ∧ t = s.raise .cfgParam) ∨
    (∃ k b, wordCount nk = some k ∧ wordCount nb = some b ∧ t = (s.configure k b m).answer (rounds k b).byte) := by
  unfold execCfg at h
  cases hk : wordCount nk with
  | none => rw [hk] at h; exact .inl ⟨.inl rfl, (Host.Outcome.next.inj h).symm⟩
  | some k =>
    cases hb : wordCount nb with
    | none => rw [hk, hb] at h; exact .inl ⟨.inr rfl, (Host.Outcome.next.inj h).symm⟩
    | some b => rw [hk, hb] at h; exact .inr ⟨k, b, rfl, rfl, (Host.Outcome.next.inj h).symm⟩

theorem execSbgen_next (h : execSbgen s = .next t) :
    (∃ e, s.withSbox = .error e ∧ t = s.raise e) ∨ (∃ u, s.withSbox = .ok u ∧ t = u.answer 0x00) := by
  unfold execSbgen at h
  cases hw : s.withSbox with
  | error e => rw [hw] at h; exact .inl ⟨e, rfl, (Host.Outcome.next.inj h).symm⟩
  | ok u => rw [hw] at h; exact .inr ⟨u, rfl, (Host.Outcome.next.inj h).symm⟩

theorem execSbfwd_next {x : Byte} (h : execSbfwd x s = .next t) :
    (∃ e, s.withSbox = .error e ∧ t = s.raise e) ∨ (∃ u, s.withSbox = .ok u ∧ t = u.answer (lookup u.sbf x)) := by
  unfold execSbfwd at h
  cases hw : s.withSbox with
  | error e => rw [hw] at h; exact .inl ⟨e, rfl, (Host.Outcome.next.inj h).symm⟩
  | ok u => rw [hw] at h; exact .inr ⟨u, rfl, (Host.Outcome.next.inj h).symm⟩

theorem execSbinv_next {x : Byte} (h : execSbinv x s = .next t) :
    (∃ e, s.withSbox = .error e ∧ t = s.raise e) ∨ (∃ u, s.withSbox = .ok u ∧ t = u.answer (lookup u.sbi x)) := by
  unfold execSbinv at h
  cases hw : s.withSbox with
  | error e => rw [hw] at h; exact .inl ⟨e, rfl, (Host.Outcome.next.inj h).symm⟩
  | ok u => rw [hw] at h; exact .inr ⟨u, rfl, (Host.Outcome.next.inj h).symm⟩

theorem execKexp_next {len : Byte} (h : execKexp len s = .next t) :
    (s.cfgValid = false ∧ t = s.raise .ordNocfg) ∨
    (s.cfgValid = true ∧ len.toNat ≠ keyBytes s.nk ∧ t = s.raise .cfgKeysize) ∨
    (s.cfgValid = true ∧ len.toNat = keyBytes s.nk ∧ ∃ e, s.ensureSbox = .error e ∧ t = s.raise e) ∨
    (s.cfgValid = true ∧ len.toNat = keyBytes s.nk ∧ ∃ u, s.ensureSbox = .ok u ∧
      t = State.answer (u.nr.byte + 1) { u with w := u.expandKey, ksValid := true, run := false }) := by
  unfold execKexp at h
  split at h
  · next hc => exact .inl ⟨hc, (Host.Outcome.next.inj h).symm⟩
  · next hc =>
    have hc' : s.cfgValid = true := by simpa using hc
    split at h
    · next hl => exact .inr (.inl ⟨hc', hl, (Host.Outcome.next.inj h).symm⟩)
    · next hl =>
      have hl' : len.toNat = keyBytes s.nk := by simpa using hl
      cases hw : s.ensureSbox with
      | error e => rw [hw] at h; exact .inr (.inr (.inl ⟨hc', hl', e, rfl, (Host.Outcome.next.inj h).symm⟩))
      | ok u => rw [hw] at h; exact .inr (.inr (.inr ⟨hc', hl', u, rfl, (Host.Outcome.next.inj h).symm⟩))

theorem execRcon_next {j : Byte} (h : execRcon j s = .next t) :
    (j = 0 ∧ t = s.raise .operand) ∨ (j ≠ 0 ∧ t = s.answer (rcon canonicalModulus j.toNat)) := by
  unfold execRcon at h
  split at h
  · next hj => exact .inl ⟨hj, (Host.Outcome.next.inj h).symm⟩
  · next hj => exact .inr ⟨hj, (Host.Outcome.next.inj h).symm⟩

theorem execEncb_next {len : Byte} (h : execEncb len s = .next t) :
    (∃ e, s.blockCheck len = some e ∧ t = s.raise e) ∨
    (s.blockCheck len = none ∧ t = (s.setDout (s.encrypt s.inputBlock)).answer 0x00) := by
  unfold execEncb at h
  cases hb : s.blockCheck len with
  | none => rw [hb] at h; exact .inr ⟨rfl, (Host.Outcome.next.inj h).symm⟩
  | some e => rw [hb] at h; exact .inl ⟨e, rfl, (Host.Outcome.next.inj h).symm⟩

theorem execDecb_next {len : Byte} (h : execDecb len s = .next t) :
    (∃ e, s.blockCheck len = some e ∧ t = s.raise e) ∨
    (s.blockCheck len = none ∧ t = (s.setDout (s.decrypt s.inputBlock)).answer 0x00) := by
  unfold execDecb at h
  cases hb : s.blockCheck len with
  | none => rw [hb] at h; exact .inr ⟨rfl, (Host.Outcome.next.inj h).symm⟩
  | some e => rw [hb] at h; exact .inl ⟨e, rfl, (Host.Outcome.next.inj h).symm⟩

theorem execCtxinit_next {mode pad ivlen : Byte} (h : execCtxinit mode pad ivlen s = .next t) :
    (s.cfgValid = false ∧ t = s.raise .ordNocfg) ∨
    (s.cfgValid = true ∧ mode ≠ 0 ∧ ivlen = 0 ∧ t = s.raise .cfgNoiv) ∨
    (s.cfgValid = true ∧ ivlen ≠ 0 ∧ ivlen.toNat ≠ blockBytes s.nb ∧ t = s.raise .cfgIvsize) ∨
    (s.cfgValid = true ∧ (ivlen = 0 → mode = 0) ∧ (ivlen ≠ 0 → ivlen.toNat = blockBytes s.nb) ∧
      t = State.answer 0x00 { s with mode := mode, padsel := pad, ivlen := ivlen, ivPresent := decide (ivlen ≠ 0),
                                     ctxValid := true, run := false }) := by
  unfold execCtxinit at h
  split at h
  · next hc => exact .inl ⟨hc, (Host.Outcome.next.inj h).symm⟩
  · next hc =>
    have hc' : s.cfgValid = true := by simpa using hc
    split at h
    · next h1 => exact .inr (.inl ⟨hc', h1.1, h1.2, (Host.Outcome.next.inj h).symm⟩)
    · next h1 =>
      split at h
      · next h2 => exact .inr (.inr (.inl ⟨hc', h2.1, h2.2, (Host.Outcome.next.inj h).symm⟩))
      · next h2 =>
        refine .inr (.inr (.inr ⟨hc', fun h0 => ?_, fun h0 => ?_, (Host.Outcome.next.inj h).symm⟩))
        · exact Classical.byContradiction fun hm => h1 ⟨hm, h0⟩
        · exact Classical.byContradiction fun hm => h2 ⟨h0, hm⟩

theorem execStart_next {dir : Byte} (h : execStart dir s = .next t) :
    (s.cfgValid = false ∧ t = s.raise .ordNocfg) ∨
    (s.cfgValid = true ∧ s.ctxValid = false ∧ t = s.raise .ordNoctx) ∨
    (s.cfgValid = true ∧ s.ctxValid = true ∧ s.ksValid = false ∧ t = s.raise .ordNokey) ∨
    (s.cfgValid = true ∧ s.ctxValid = true ∧ s.ksValid = true ∧ modeOf s.mode = none ∧ t = s.raise .cfgSelector) ∨
    (s.cfgValid = true ∧ s.ctxValid = true ∧ s.ksValid = true ∧ ∃ mode, modeOf s.mode = some mode ∧
      ((1 < dir.toNat ∧ t = s.raise .operand) ∨
       (dir.toNat ≤ 1 ∧
        t = State.answer 0x00 { s.initFeedback mode with dir := decide (dir.toNat = 1), blkcnt := 0, run := true }))) := by
  unfold execStart at h
  split at h
  · next hc => exact .inl ⟨hc, (Host.Outcome.next.inj h).symm⟩
  · next hc =>
    have hc' : s.cfgValid = true := by simpa using hc
    split at h
    · next h1 => exact .inr (.inl ⟨hc', h1, (Host.Outcome.next.inj h).symm⟩)
    · next h1 =>
      have h1' : s.ctxValid = true := by simpa using h1
      split at h
      · next h2 => exact .inr (.inr (.inl ⟨hc', h1', h2, (Host.Outcome.next.inj h).symm⟩))
      · next h2 =>
        have h2' : s.ksValid = true := by simpa using h2
        cases hm : modeOf s.mode with
        | none => rw [hm] at h; exact .inr (.inr (.inr (.inl ⟨hc', h1', h2', rfl, (Host.Outcome.next.inj h).symm⟩)))
        | some mode =>
          rw [hm] at h
          dsimp only at h
          refine .inr (.inr (.inr (.inr ⟨hc', h1', h2', mode, rfl, ?_⟩)))
          split at h
          · next hd => exact .inl ⟨hd, (Host.Outcome.next.inj h).symm⟩
          · next hd => exact .inr ⟨by omega, (Host.Outcome.next.inj h).symm⟩

theorem execMblk_next {len : Byte} (h : execMblk len s = .next t) :
    (s.cfgValid = false ∧ t = s.raise .ordNocfg) ∨
    (s.cfgValid = true ∧ s.run = false ∧ t = s.raise .ordNoctx) ∨
    (s.cfgValid = true ∧ s.run = true ∧ len.toNat ≠ blockBytes s.nb ∧ t = s.raise .cfgBlocksize) ∨
    (s.cfgValid = true ∧ s.run = true ∧ len.toNat = blockBytes s.nb ∧ ∃ mode, modeOf s.mode = some mode ∧
      t = (s.afterBlock mode).answer 0x00) := by
  unfold execMblk at h
  split at h
  · next hc => exact .inl ⟨hc, (Host.Outcome.next.inj h).symm⟩
  · next hc =>
    have hc' : s.cfgValid = true := by simpa using hc
    split at h
    · next h1 => exact .inr (.inl ⟨hc', h1, (Host.Outcome.next.inj h).symm⟩)
    · next h1 =>
      have h1' : s.run = true := by simpa using h1
      split at h
      · next h2 => exact .inr (.inr (.inl ⟨hc', h1', h2, (Host.Outcome.next.inj h).symm⟩))
      · next h2 =>
        cases hm : modeOf s.mode with
        | none => rw [hm] at h; cases h
        | some mode =>
          rw [hm] at h
          exact .inr (.inr (.inr ⟨hc', h1', by simpa using h2, mode, rfl, (Host.Outcome.next.inj h).symm⟩))

theorem execMpart_next {n : Byte} (h : execMpart n s = .next t) :
    (s.cfgValid = false ∧ t = s.raise .ordNocfg) ∨
    (s.cfgValid = true ∧ s.run = false ∧ t = s.raise .ordNoctx) ∨
    (s.cfgValid = true ∧ s.run = true ∧ (modeOf s.mode).filter Mode.hasKeystream = none ∧ t = s.raise .cfgBlocksize) ∨
    (s.cfgValid = true ∧ s.run = true ∧ ∃ mode, (modeOf s.mode).filter Mode.hasKeystream = some mode ∧
      (((n.toNat < 1 ∨ n.toNat ≥ blockBytes s.nb) ∧ t = s.raise .operand) ∨
       (1 ≤ n.toNat ∧ n.toNat < blockBytes s.nb ∧
        t = State.answer n { s.setDout (s.tailBytes mode n.toNat) with blkcnt := s.blkcnt + 1, run := false }))) := by
  unfold execMpart at h
  split at h
  · next hc => exact .inl ⟨hc, (Host.Outcome.next.inj h).symm⟩
  · next hc =>
    have hc' : s.cfgValid = true := by simpa using hc
    split at h
    · next h1 => exact .inr (.inl ⟨hc', h1, (Host.Outcome.next.inj h).symm⟩)
    · next h1 =>
      have h1' : s.run = true := by simpa using h1
      cases hm : (modeOf s.mode).filter Mode.hasKeystream with
      | none => rw [hm] at h; exact .inr (.inr (.inl ⟨hc', h1', rfl, (Host.Outcome.next.inj h).symm⟩))
      | some mode =>
        rw [hm] at h
        dsimp only at h
        refine .inr (.inr (.inr ⟨hc', h1', mode, rfl, ?_⟩))
        split at h
        · next hd => exact .inl ⟨hd, (Host.Outcome.next.inj h).symm⟩
        · next hd => exact .inr ⟨by omega, by omega, (Host.Outcome.next.inj h).symm⟩

theorem execPad_next {n : Byte} (h : execPad n s = .next t) :
    (∃ e, s.paddingMode = .error e ∧ t = s.raise e) ∨
    (∃ mode, s.paddingMode = .ok mode ∧
      ((mode.streamStyle = true ∧ blockBytes s.nb < n.toNat ∧ t = s.raise .operand) ∨
       (mode.streamStyle = true ∧ n.toNat ≤ blockBytes s.nb ∧ t = s.answer n) ∨
       (mode.streamStyle = false ∧ paddingOf s.padsel = none ∧ t = s.raise .cfgSelector) ∨
       (mode.streamStyle = false ∧ ∃ p, paddingOf s.padsel = some p ∧
         ((blockBytes s.nb ≤ n.toNat ∧ t = s.raise .operand) ∨
          (n.toNat < blockBytes s.nb ∧ t = (s.padded p n.toNat).answer (BitVec.ofNat 8 (blockBytes s.nb))))))) := by
  unfold execPad at h
  cases hp : s.paddingMode with
  | error e => rw [hp] at h; exact .inl ⟨e, rfl, (Host.Outcome.next.inj h).symm⟩
  | ok mode =>
    rw [hp] at h
    dsimp only at h
    refine .inr ⟨mode, rfl, ?_⟩
    split at h
    · next hst =>
      split at h
      · next hd => exact .inl ⟨hst, hd, (Host.Outcome.next.inj h).symm⟩
      · next hd => exact .inr (.inl ⟨hst, by omega, (Host.Outcome.next.inj h).symm⟩)
    · next hst =>
      have hst' : mode.streamStyle = false := by simpa using hst
      cases hq : paddingOf s.padsel with
      | none => rw [hq] at h; exact .inr (.inr (.inl ⟨hst', rfl, (Host.Outcome.next.inj h).symm⟩))
      | some p =>
        rw [hq] at h
        dsimp only at h
        refine .inr (.inr (.inr ⟨hst', p, rfl, ?_⟩))
        split at h
        · next hd => exact .inl ⟨hd, (Host.Outcome.next.inj h).symm⟩
        · next hd => exact .inr ⟨by omega, (Host.Outcome.next.inj h).symm⟩

theorem execUnpad_next (h : execUnpad s = .next t) :
    (∃ e, s.paddingMode = .error e ∧ t = s.raise e) ∨
    (∃ mode, s.paddingMode = .ok mode ∧
      ((mode.streamStyle = true ∧ t = s.answer (BitVec.ofNat 8 (blockBytes s.nb))) ∨
       (mode.streamStyle = false ∧ paddingOf s.padsel = none ∧ t = s.raise .cfgSelector) ∨
       (mode.streamStyle = false ∧ ∃ p, paddingOf s.padsel = some p ∧
         ((padLength p (blockBytes s.nb) (s.byte .dout) = none ∧ t = s.raise .pad) ∨
          (∃ len, padLength p (blockBytes s.nb) (s.byte .dout) = some len ∧
            t = s.answer (BitVec.ofNat 8 (blockBytes s.nb - len))))))) := by
  unfold execUnpad at h
  cases hp : s.paddingMode with
  | error e => rw [hp] at h; exact .inl ⟨e, rfl, (Host.Outcome.next.inj h).symm⟩
  | ok mode =>
    rw [hp] at h
    dsimp only at h
    refine .inr ⟨mode, rfl, ?_⟩
    split at h
    · next hst => exact .inl ⟨hst, (Host.Outcome.next.inj h).symm⟩
    · next hst =>
      have hst' : mode.streamStyle = false := by simpa using hst
      cases hq : paddingOf s.padsel with
      | none => rw [hq] at h; exact .inr (.inl ⟨hst', rfl, (Host.Outcome.next.inj h).symm⟩)
      | some p =>
        rw [hq] at h
        dsimp only at h
        refine .inr (.inr ⟨hst', p, rfl, ?_⟩)
        cases hl : padLength p (blockBytes s.nb) (s.byte .dout) with
        | none => rw [hl] at h; exact .inl ⟨rfl, (Host.Outcome.next.inj h).symm⟩
        | some len => rw [hl] at h; exact .inr ⟨len, rfl, (Host.Outcome.next.inj h).symm⟩

theorem execWrb_next {buf idx val : Byte} (h : execWrb buf idx val s = .next t) :
    (t = s.raise .operand ∧ ((bufferOf buf).filter Buffer.hostWrites = none ∨ bufferSize ≤ idx.toNat)) ∨
    (∃ b, (bufferOf buf).filter Buffer.hostWrites = some b ∧ idx.toNat < bufferSize ∧
      t = (s.setByte b idx.toNat val).answer 0x00) := by
  unfold execWrb at h
  cases hb : (bufferOf buf).filter Buffer.hostWrites with
  | none => rw [hb] at h; exact .inl ⟨(Host.Outcome.next.inj h).symm, .inl rfl⟩
  | some b =>
    rw [hb] at h
    dsimp only at h
    split at h
    · next hi => exact .inr ⟨b, rfl, hi, (Host.Outcome.next.inj h).symm⟩
    · next hi => exact .inl ⟨(Host.Outcome.next.inj h).symm, .inr (by omega)⟩

theorem execRdb_next {buf idx : Byte} (h : execRdb buf idx s = .next t) :
    (t = s.raise .operand ∧ ((bufferOf buf).filter Buffer.hostReads = none ∨ bufferSize ≤ idx.toNat)) ∨
    (∃ b, (bufferOf buf).filter Buffer.hostReads = some b ∧ idx.toNat < bufferSize ∧
      t = s.answer (s.byte b idx.toNat)) := by
  unfold execRdb at h
  cases hb : (bufferOf buf).filter Buffer.hostReads with
  | none => rw [hb] at h; exact .inl ⟨(Host.Outcome.next.inj h).symm, .inl rfl⟩
  | some b =>
    rw [hb] at h
    dsimp only at h
    split at h
    · next hi => exact .inr ⟨b, rfl, hi, (Host.Outcome.next.inj h).symm⟩
    · next hi => exact .inl ⟨(Host.Outcome.next.inj h).symm, .inr (by omega)⟩

theorem execRdst_next {sel : Byte} (h : execRdst sel s = .next t) :
    (s.statusByte sel = none ∧ t = s.raise .operand) ∨ (∃ v, s.statusByte sel = some v ∧ t = s.answer v) := by
  unfold execRdst at h
  cases hv : s.statusByte sel with
  | none => rw [hv] at h; exact .inl ⟨rfl, (Host.Outcome.next.inj h).symm⟩
  | some v => rw [hv] at h; exact .inr ⟨v, rfl, (Host.Outcome.next.inj h).symm⟩

end Sys2Proof.Machine
end

