-- ==== Sys2Proof/Laws/PerInstr.lean ====
section
/-! SUPPORT. Statements about every command as syntax, one lemma per constructor. -/

namespace Sys2Proof.Laws

/-- The fields the encoder writes form a command: the opcode is listed and the reserved fields are zero (R62, R63). -/
def EncodesWellFormed.Statement (i : Instr) : Prop := (encodeFields i).wellFormed = true

theorem EncodesWellFormed.gfadd (a b : Byte) : EncodesWellFormed.Statement (.gfadd a b) := rfl
theorem EncodesWellFormed.gfmul (a b m : Byte) : EncodesWellFormed.Statement (.gfmul a b m) := rfl
theorem EncodesWellFormed.gfinv (a m : Byte) : EncodesWellFormed.Statement (.gfinv a m) := rfl
theorem EncodesWellFormed.gfirr (p : Byte) : EncodesWellFormed.Statement (.gfirr p) := rfl
theorem EncodesWellFormed.gfirrn (k : Byte) : EncodesWellFormed.Statement (.gfirrn k) := rfl
theorem EncodesWellFormed.cfg (nk nb m : Byte) : EncodesWellFormed.Statement (.cfg nk nb m) := rfl
theorem EncodesWellFormed.sbgen : EncodesWellFormed.Statement (.sbgen) := rfl
theorem EncodesWellFormed.sbfwd (x : Byte) : EncodesWellFormed.Statement (.sbfwd x) := rfl
theorem EncodesWellFormed.sbinv (x : Byte) : EncodesWellFormed.Statement (.sbinv x) := rfl
theorem EncodesWellFormed.kexp (len : Byte) : EncodesWellFormed.Statement (.kexp len) := rfl
theorem EncodesWellFormed.rcon (j : Byte) : EncodesWellFormed.Statement (.rcon j) := rfl
theorem EncodesWellFormed.encb (len : Byte) : EncodesWellFormed.Statement (.encb len) := rfl
theorem EncodesWellFormed.decb (len : Byte) : EncodesWellFormed.Statement (.decb len) := rfl
theorem EncodesWellFormed.ctxinit (mode pad ivlen : Byte) : EncodesWellFormed.Statement (.ctxinit mode pad ivlen) := rfl
theorem EncodesWellFormed.start (dir : Byte) : EncodesWellFormed.Statement (.start dir) := rfl
theorem EncodesWellFormed.mblk (len : Byte) : EncodesWellFormed.Statement (.mblk len) := rfl
theorem EncodesWellFormed.mpart (n : Byte) : EncodesWellFormed.Statement (.mpart n) := rfl
theorem EncodesWellFormed.pad (n : Byte) : EncodesWellFormed.Statement (.pad n) := rfl
theorem EncodesWellFormed.unpad : EncodesWellFormed.Statement (.unpad) := rfl
theorem EncodesWellFormed.wrb (buf idx val : Byte) : EncodesWellFormed.Statement (.wrb buf idx val) := rfl
theorem EncodesWellFormed.rdb (buf idx : Byte) : EncodesWellFormed.Statement (.rdb buf idx) := rfl
theorem EncodesWellFormed.rdst (sel : Byte) : EncodesWellFormed.Statement (.rdst sel) := rfl
theorem EncodesWellFormed.rst : EncodesWellFormed.Statement (.rst) := rfl

end Sys2Proof.Laws
end

