-- ==== Sys2Proof/Laws/Rounds.lean ====
section
/-! SUPPORT. The entries `s[r][c]` of a state matrix, and the row shifts written out. -/

namespace Sys2Proof.Machine

variable {nb : WordCount} {r c : Nat}

/-- An entry of a matrix given by its entries. -/
theorem cell_matrixOf (entry : Fin nb.toNat → Fin 4 → Byte) (hr : r < 4) (hc : c < nb.toNat) :
    cell (matrixOf entry) r c = entry ⟨c, hc⟩ ⟨r, hr⟩ := by simp [cell, matrixOf, byteAt, hr, hc]

/-- Inside the matrix an entry is the byte of the column. -/
theorem cell_eq_getElem (s : Matrix nb) (hr : r < 4) (hc : c < nb.toNat) : cell s r c = (s[c])[r] := by
  simp [cell, byteAt, hr, hc]

/-- The shifts ShiftRows uses are the table of R143. -/
theorem shiftAmount_eq_rowShift (nb : WordCount) (r : Fin 4) : shiftAmount nb r = rowShift nb r := by
  revert r; cases nb <;> decide

end Sys2Proof.Machine
end

