-- ==== Sys2Proof/Machine/Assembler.lean ====
section
/-! DEFINITION. The assembler's language (`30_encoding.md` rules R68, R69): one command per line, operands decimal,
hexadecimal or symbolic, a comment from a semicolon on. It serves to write programs down; `exec` and `step` do not call it
(log entry 17). -/

namespace Sys2Proof.Machine

/-- The value of a hexadecimal digit. -/
def hexDigit (c : Char) : Option Nat :=
  if c.isDigit then some (c.toNat - 48)
  else if 97 ≤ c.toNat ∧ c.toNat ≤ 102 then some (c.toNat - 87)
  else if 65 ≤ c.toNat ∧ c.toNat ≤ 70 then some (c.toNat - 55)
  else none

/-- The number a nonempty row of digits of a base denotes. -/
def digitsValue (base : Nat) (cs : List Char) : Option Nat :=
  if cs.isEmpty then none
  else cs.foldl (fun acc c => do
    let v ← acc
    let d ← hexDigit c
    if d < base then some (v * base + d) else none) (some 0)

/-- A numeric operand: decimal or `0x` hexadecimal (R68). -/
def numberValue : List Char → Option Nat
  | '0' :: 'x' :: cs => digitsValue 16 cs
  | cs => digitsValue 10 cs

/-- The symbolic operand names (R69). -/
def symbolTable : List (String × Nat) :=
  [("KEYBUF", 0), ("IVBUF", 1), ("DIN", 2), ("DOUT", 3),
   ("ECB", 0), ("CBC", 1), ("PCBC", 2), ("CFB", 3), ("OFB", 4), ("CTR", 5), ("RANDOMDELTA", 6),
   ("ZEROS", 0), ("PKCS7", 1), ("ANSIX923", 2), ("ISO10126", 3), ("ENC", 0), ("DEC", 1)]

/-- An operand: a symbol, or a number in 0..255 (R68, R69). -/
def operandValue (cs : List Char) : Option Byte :=
  match symbolTable.find? fun e => e.1.toList == cs with
  | some e => some (BitVec.ofNat 8 e.2)
  | none =>
    match numberValue cs with
    | some v => if v < 256 then some (BitVec.ofNat 8 v) else none
    | none => none

/-- The command of a mnemonic and its operands, in the order of R62. -/
def commandOf (mnemonic : String) (ops : List Byte) : Option Instr :=
  match mnemonic, ops with
  | "GFADD", [a, b] => some (.gfadd a b)
  | "GFMUL", [a, b, m] => some (.gfmul a b m)
  | "GFINV", [a, m] => some (.gfinv a m)
  | "GFIRR", [p] => some (.gfirr p)
  | "GFIRRN", [k] => some (.gfirrn k)
  | "CFG", [nk, nb, m] => some (.cfg nk nb m)
  | "SBGEN", [] => some .sbgen
  | "SBFWD", [x] => some (.sbfwd x)
  | "SBINV", [x] => some (.sbinv x)
  | "KEXP", [len] => some (.kexp len)
  | "RCON", [j] => some (.rcon j)
  | "ENCB", [len] => some (.encb len)
  | "DECB", [len] => some (.decb len)
  | "CTXINIT", [mode, pad, ivlen] => some (.ctxinit mode pad ivlen)
  | "START", [dir] => some (.start dir)
  | "MBLK", [len] => some (.mblk len)
  | "MPART", [n] => some (.mpart n)
  | "PAD", [n] => some (.pad n)
  | "UNPAD", [] => some .unpad
  | "WRB", [buf, idx, val] => some (.wrb buf idx val)
  | "RDB", [buf, idx] => some (.rdb buf idx)
  | "RDST", [sel] => some (.rdst sel)
  | "RST", [] => some .rst
  | _, _ => none

/-- The pieces of a row of characters between separators. -/
def splitOn (sep : Char) : List Char → List (List Char)
  | [] => [[]]
  | c :: cs =>
    match splitOn sep cs with
    | [] => [[c]]
    | piece :: rest => if c = sep then [] :: piece :: rest else (c :: piece) :: rest

/-- The operands of a line after its mnemonic; none at all where nothing but blanks is left. DESIGN CHOICE (log entry 17):
R68 says nothing of blanks, and every blank is dropped, around an operand and inside one: `1 2` reads as `12`, `K EYBUF`
as `KEYBUF`. -/
def operandsOf (cs : List Char) : Option (List Byte) :=
  let bare := cs.filter fun c => !c.isWhitespace
  if bare.isEmpty then some [] else (splitOn ',' bare).mapM operandValue

/-- The words of one line (R68): none for a malformed line, no word for an empty or a comment line, else one word. -/
def assembleLine (line : String) : Option (List CommandWord) :=
  let code := (line.toList.takeWhile fun c => c != ';').dropWhile Char.isWhitespace
  let mnemonic := code.takeWhile fun c => !c.isWhitespace
  if mnemonic.isEmpty then some []
  else do
    let ops ← operandsOf (code.drop mnemonic.length)
    let i ← commandOf (String.ofList mnemonic) ops
    some [encode i]

/-- The words of a program, line by line (R68). -/
def assemble (lines : List String) : Option (List CommandWord) := (lines.mapM assembleLine).map List.flatten

end Sys2Proof.Machine
end

