-- ==== Sys2Proof/Machine/HostProcedures.lean ====
section
/-! DEFINITION. What the host owes the unit, as lists of commands: the boot order (`70_reset_and_hazards.md` rule R282)
and the whole-message procedures (`44_modes_padding.md` rules R206 to R209). They are host software, no part of the unit:
`exec` and `step` do not call them (log entry 18). -/

namespace Sys2Proof.Machine

/-- The id of a buffer as an operand. -/
def Buffer.operand (b : Buffer) : Byte := BitVec.ofNat 8 b.id

/-- `WRB` commands that write bytes from index 0 on. -/
def writeCommands (b : Buffer) (bytes : List Byte) : List Instr :=
  bytes.mapIdx fun i v => .wrb b.operand (BitVec.ofNat 8 i) v

/-- `RDB` commands that read `DOUT[0..n-1]`. -/
def readCommands (n : Nat) : List Instr := (List.range n).map fun i => .rdb Buffer.dout.operand (BitVec.ofNat 8 i)

/-- Block `k` of a message cut into blocks of `size` bytes. -/
def blockOf (size : Nat) (msg : List Byte) (k : Nat) : List Byte := (msg.drop (k * size)).take size

/-- One whole block: write it, `MBLK B`, read the result. -/
def blockCommands (size : Nat) (block : List Byte) : List Instr :=
  writeCommands .din block ++ [.mblk (BitVec.ofNat 8 size)] ++ readCommands size

/-- The whole blocks of a message, in order. -/
def wholeBlockCommands (size : Nat) (msg : List Byte) : List Instr :=
  (List.range (msg.length / size)).flatMap fun k => blockCommands size (blockOf size msg k)

/-- R282, steps 1 to 4: configure, key, IV, context. `START` (step 5) begins each message. -/
def bootCommands (nk nb m : Byte) (key iv : List Byte) (mode : Mode) (p : Padding) : List Instr :=
  [.cfg nk nb m] ++ writeCommands .keybuf key ++ [.kexp (BitVec.ofNat 8 key.length)] ++ writeCommands .ivbuf iv
    ++ [.ctxinit mode.selector p.selector (BitVec.ofNat 8 iv.length)]

/-- R206: encrypt a message in a padded mode. -/
def encryptPaddedCommands (size : Nat) (p : Padding) (msg : List Byte) : List Instr :=
  let n := msg.length % size
  let whole := [.start 0] ++ wholeBlockCommands size msg
  if p = .zeros ∧ n = 0 ∧ Config.zerosPadAligned = false then whole
  else
    whole ++ writeCommands .din (blockOf size msg (msg.length / size))
      ++ [.pad (BitVec.ofNat 8 n), .mblk (BitVec.ofNat 8 size)] ++ readCommands size

/-- R207: decrypt a ciphertext, a positive multiple of the block size long, in a padded mode; the answer to the last
command is the number of message bytes in the last block. -/
def decryptPaddedCommands (size : Nat) (cipher : List Byte) : List Instr :=
  [.start 1] ++ wholeBlockCommands size cipher ++ [.unpad]

/-- R208: a message in CFB, OFB or CTR, in either direction. -/
def streamCommands (dir : Byte) (size : Nat) (msg : List Byte) : List Instr :=
  let n := msg.length % size
  let whole := [.start dir] ++ wholeBlockCommands size msg
  if n = 0 then whole
  else whole ++ writeCommands .din (blockOf size msg (msg.length / size)) ++ [.mpart (BitVec.ofNat 8 n)] ++ readCommands n

/-- R209: a message of whole blocks in RandomDelta. -/
def deltaCommands (dir : Byte) (size : Nat) (msg : List Byte) : List Instr := [.start dir] ++ wholeBlockCommands size msg

/-- The command words the host issues for a list of commands. -/
def issue (cmds : List Instr) : List HostEvent := cmds.map fun i => .command (encode i)

end Sys2Proof.Machine
end

