-- ==== Sys2Proof/Tests/Slice0.lean ====
section
/-! SUPPORT. The model's own tests: ill-formed words, words written out from the spec's encoding, single commands against
the values of `95_test_vectors.md` (the section stands with each), and for every statement with hypotheses a witness that
meets them. -/

namespace Sys2Proof.Tests

open Sys2Proof.Machine

/-! Small states -/

/-- The response of a command, none where the unit stops. -/
def reply (i : Instr) (s : State) : Option Response :=
  match exec i s with
  | .next t => some t.response
  | .fault _ | .refused _ => none

/-- What a command leaves in a piece of the state. -/
def after {α : Type} (i : Instr) (s : State) (f : State → α) : Option α :=
  match exec i s with
  | .next t => some (f t)
  | .fault _ | .refused _ => none

/-- The host is about to issue one word to a unit just reset. -/
def issuing (w : CommandWord) : State := { State.reset with host := [.command w] }

/-- Configured with 4 and 4 words and the modulus `0x1B`. -/
def configured : State := { State.reset with cfgValid := true }

/-- Configured with a reducible modulus. -/
def reducible : State := { configured with modulus := 0x01 }

/-- Valid flags up to the key schedule, the tables and words as reset leaves them. -/
def keyed : State := { configured with sbValid := true, ksValid := true }

/-- A context with a mode and a padding over `keyed`. -/
def context (mode pad : Byte) : State :=
  { keyed with ctxValid := true, mode := mode, padsel := pad, ivlen := 16, ivPresent := true }

/-- An open call of a mode. -/
def opened (mode : Byte) : State := { context mode 1 with run := true }

/-- The configured tables are built. -/
def built : State :=
  { configured with sbf := forwardTable 0x1B, sbi := inverseTable (forwardTable 0x1B), sbValid := true }

/-- The key of sixteen zero bytes is expanded. -/
def expanded : State := { built with w := built.expandKey, ksValid := true }

/-- `DIN` or `DOUT` holds sixteen bytes. -/
def holding (s : State) (b : Buffer) (bytes : List Byte) : State := s.setBytes b 0 bytes

/-- Section 3: the forward table for `0x1B`, as printed. -/
def canonicalForward : List Byte :=
  [0x63, 0x7C, 0x77, 0x7B, 0xF2, 0x6B, 0x6F, 0xC5, 0x30, 0x01, 0x67, 0x2B, 0xFE, 0xD7, 0xAB, 0x76] ++
  [0xCA, 0x82, 0xC9, 0x7D, 0xFA, 0x59, 0x47, 0xF0, 0xAD, 0xD4, 0xA2, 0xAF, 0x9C, 0xA4, 0x72, 0xC0] ++
  [0xB7, 0xFD, 0x93, 0x26, 0x36, 0x3F, 0xF7, 0xCC, 0x34, 0xA5, 0xE5, 0xF1, 0x71, 0xD8, 0x31, 0x15] ++
  [0x04, 0xC7, 0x23, 0xC3, 0x18, 0x96, 0x05, 0x9A, 0x07, 0x12, 0x80, 0xE2, 0xEB, 0x27, 0xB2, 0x75] ++
  [0x09, 0x83, 0x2C, 0x1A, 0x1B, 0x6E, 0x5A, 0xA0, 0x52, 0x3B, 0xD6, 0xB3, 0x29, 0xE3, 0x2F, 0x84] ++
  [0x53, 0xD1, 0x00, 0xED, 0x20, 0xFC, 0xB1, 0x5B, 0x6A, 0xCB, 0xBE, 0x39, 0x4A, 0x4C, 0x58, 0xCF] ++
  [0xD0, 0xEF, 0xAA, 0xFB, 0x43, 0x4D, 0x33, 0x85, 0x45, 0xF9, 0x02, 0x7F, 0x50, 0x3C, 0x9F, 0xA8] ++
  [0x51, 0xA3, 0x40, 0x8F, 0x92, 0x9D, 0x38, 0xF5, 0xBC, 0xB6, 0xDA, 0x21, 0x10, 0xFF, 0xF3, 0xD2] ++
  [0xCD, 0x0C, 0x13, 0xEC, 0x5F, 0x97, 0x44, 0x17, 0xC4, 0xA7, 0x7E, 0x3D, 0x64, 0x5D, 0x19, 0x73] ++
  [0x60, 0x81, 0x4F, 0xDC, 0x22, 0x2A, 0x90, 0x88, 0x46, 0xEE, 0xB8, 0x14, 0xDE, 0x5E, 0x0B, 0xDB] ++
  [0xE0, 0x32, 0x3A, 0x0A, 0x49, 0x06, 0x24, 0x5C, 0xC2, 0xD3, 0xAC, 0x62, 0x91, 0x95, 0xE4, 0x79] ++
  [0xE7, 0xC8, 0x37, 0x6D, 0x8D, 0xD5, 0x4E, 0xA9, 0x6C, 0x56, 0xF4, 0xEA, 0x65, 0x7A, 0xAE, 0x08] ++
  [0xBA, 0x78, 0x25, 0x2E, 0x1C, 0xA6, 0xB4, 0xC6, 0xE8, 0xDD, 0x74, 0x1F, 0x4B, 0xBD, 0x8B, 0x8A] ++
  [0x70, 0x3E, 0xB5, 0x66, 0x48, 0x03, 0xF6, 0x0E, 0x61, 0x35, 0x57, 0xB9, 0x86, 0xC1, 0x1D, 0x9E] ++
  [0xE1, 0xF8, 0x98, 0x11, 0x69, 0xD9, 0x8E, 0x94, 0x9B, 0x1E, 0x87, 0xE9, 0xCE, 0x55, 0x28, 0xDF] ++
  [0x8C, 0xA1, 0x89, 0x0D, 0xBF, 0xE6, 0x42, 0x68, 0x41, 0x99, 0x2D, 0x0F, 0xB0, 0x54, 0xBB, 0x16]

/-- Section 3: the inverse table for `0x1B`, as printed. -/
def canonicalInverse : List Byte :=
  [0x52, 0x09, 0x6A, 0xD5, 0x30, 0x36, 0xA5, 0x38, 0xBF, 0x40, 0xA3, 0x9E, 0x81, 0xF3, 0xD7, 0xFB] ++
  [0x7C, 0xE3, 0x39, 0x82, 0x9B, 0x2F, 0xFF, 0x87, 0x34, 0x8E, 0x43, 0x44, 0xC4, 0xDE, 0xE9, 0xCB] ++
  [0x54, 0x7B, 0x94, 0x32, 0xA6, 0xC2, 0x23, 0x3D, 0xEE, 0x4C, 0x95, 0x0B, 0x42, 0xFA, 0xC3, 0x4E] ++
  [0x08, 0x2E, 0xA1, 0x66, 0x28, 0xD9, 0x24, 0xB2, 0x76, 0x5B, 0xA2, 0x49, 0x6D, 0x8B, 0xD1, 0x25] ++
  [0x72, 0xF8, 0xF6, 0x64, 0x86, 0x68, 0x98, 0x16, 0xD4, 0xA4, 0x5C, 0xCC, 0x5D, 0x65, 0xB6, 0x92] ++
  [0x6C, 0x70, 0x48, 0x50, 0xFD, 0xED, 0xB9, 0xDA, 0x5E, 0x15, 0x46, 0x57, 0xA7, 0x8D, 0x9D, 0x84] ++
  [0x90, 0xD8, 0xAB, 0x00, 0x8C, 0xBC, 0xD3, 0x0A, 0xF7, 0xE4, 0x58, 0x05, 0xB8, 0xB3, 0x45, 0x06] ++
  [0xD0, 0x2C, 0x1E, 0x8F, 0xCA, 0x3F, 0x0F, 0x02, 0xC1, 0xAF, 0xBD, 0x03, 0x01, 0x13, 0x8A, 0x6B] ++
  [0x3A, 0x91, 0x11, 0x41, 0x4F, 0x67, 0xDC, 0xEA, 0x97, 0xF2, 0xCF, 0xCE, 0xF0, 0xB4, 0xE6, 0x73] ++
  [0x96, 0xAC, 0x74, 0x22, 0xE7, 0xAD, 0x35, 0x85, 0xE2, 0xF9, 0x37, 0xE8, 0x1C, 0x75, 0xDF, 0x6E] ++
  [0x47, 0xF1, 0x1A, 0x71, 0x1D, 0x29, 0xC5, 0x89, 0x6F, 0xB7, 0x62, 0x0E, 0xAA, 0x18, 0xBE, 0x1B] ++
  [0xFC, 0x56, 0x3E, 0x4B, 0xC6, 0xD2, 0x79, 0x20, 0x9A, 0xDB, 0xC0, 0xFE, 0x78, 0xCD, 0x5A, 0xF4] ++
  [0x1F, 0xDD, 0xA8, 0x33, 0x88, 0x07, 0xC7, 0x31, 0xB1, 0x12, 0x10, 0x59, 0x27, 0x80, 0xEC, 0x5F] ++
  [0x60, 0x51, 0x7F, 0xA9, 0x19, 0xB5, 0x4A, 0x0D, 0x2D, 0xE5, 0x7A, 0x9F, 0x93, 0xC9, 0x9C, 0xEF] ++
  [0xA0, 0xE0, 0x3B, 0x4D, 0xAE, 0x2A, 0xF5, 0xB0, 0xC8, 0xEB, 0xBB, 0x3C, 0x83, 0x53, 0x99, 0x61] ++
  [0x17, 0x2B, 0x04, 0x7E, 0xBA, 0x77, 0xD6, 0x26, 0xE1, 0x69, 0x14, 0x63, 0x55, 0x21, 0x0C, 0x7D]

/-- A table held as a list of 256 bytes. -/
def tableOf (l : List Byte) : SBox := Vector.ofFn fun i => l.getD i.val 0x00


/-- The block vector of section 1.1: key in `KEYBUF`, block in `DIN`, the tables built. -/
def vectorState : State :=
  holding (holding { configured with sbf := tableOf canonicalForward, sbi := tableOf canonicalInverse, sbValid := true } .keybuf
    [0x2B, 0x7E, 0x15, 0x16, 0x28, 0xAE, 0xD2, 0xA6, 0xAB, 0xF7, 0x15, 0x88, 0x09, 0xCF, 0x4F, 0x3C]) .din [0x32, 0x43, 0xF6, 0xA8, 0x88, 0x5A, 0x30, 0x8D, 0x31, 0x31, 0x98, 0xA2, 0xE0, 0x37, 0x07, 0x34]

/-- `DOUT[0..15]`. -/
def blockOut (s : State) : List Byte := (s.bytes .dout 16).toList
/-- Section 1.1: the round keys of the block vector, as printed. -/
def vectorRoundKeys : List Byte :=
  [0x2B, 0x7E, 0x15, 0x16, 0x28, 0xAE, 0xD2, 0xA6, 0xAB, 0xF7, 0x15, 0x88, 0x09, 0xCF, 0x4F, 0x3C] ++
  [0xA0, 0xFA, 0xFE, 0x17, 0x88, 0x54, 0x2C, 0xB1, 0x23, 0xA3, 0x39, 0x39, 0x2A, 0x6C, 0x76, 0x05] ++
  [0xF2, 0xC2, 0x95, 0xF2, 0x7A, 0x96, 0xB9, 0x43, 0x59, 0x35, 0x80, 0x7A, 0x73, 0x59, 0xF6, 0x7F] ++
  [0x3D, 0x80, 0x47, 0x7D, 0x47, 0x16, 0xFE, 0x3E, 0x1E, 0x23, 0x7E, 0x44, 0x6D, 0x7A, 0x88, 0x3B] ++
  [0xEF, 0x44, 0xA5, 0x41, 0xA8, 0x52, 0x5B, 0x7F, 0xB6, 0x71, 0x25, 0x3B, 0xDB, 0x0B, 0xAD, 0x00] ++
  [0xD4, 0xD1, 0xC6, 0xF8, 0x7C, 0x83, 0x9D, 0x87, 0xCA, 0xF2, 0xB8, 0xBC, 0x11, 0xF9, 0x15, 0xBC] ++
  [0x6D, 0x88, 0xA3, 0x7A, 0x11, 0x0B, 0x3E, 0xFD, 0xDB, 0xF9, 0x86, 0x41, 0xCA, 0x00, 0x93, 0xFD] ++
  [0x4E, 0x54, 0xF7, 0x0E, 0x5F, 0x5F, 0xC9, 0xF3, 0x84, 0xA6, 0x4F, 0xB2, 0x4E, 0xA6, 0xDC, 0x4F] ++
  [0xEA, 0xD2, 0x73, 0x21, 0xB5, 0x8D, 0xBA, 0xD2, 0x31, 0x2B, 0xF5, 0x60, 0x7F, 0x8D, 0x29, 0x2F] ++
  [0xAC, 0x77, 0x66, 0xF3, 0x19, 0xFA, 0xDC, 0x21, 0x28, 0xD1, 0x29, 0x41, 0x57, 0x5C, 0x00, 0x6E] ++
  [0xD0, 0x14, 0xF9, 0xA8, 0xC9, 0xEE, 0x25, 0x89, 0xE1, 0x3F, 0x0C, 0xC8, 0xB6, 0x63, 0x0C, 0xA6]

/-- The schedule those bytes are. -/
def vectorSchedule : Schedule := Vector.ofFn fun i => Vector.ofFn fun k => vectorRoundKeys.getD (4 * i.val + k.val) 0x00

/-! Well-formedness: every check refuses -/

theorem test_ill_unlisted_low : (fieldsOf 0x00000000).wellFormed = false := by decide
theorem test_ill_unlisted_gap : (fieldsOf 0x15000000).wellFormed = false := by decide
theorem test_ill_unlisted_high : (fieldsOf 0xFFFFFFFF).wellFormed = false := by decide
theorem test_ill_reserved_m : (fieldsOf 0x10010203).wellFormed = false := by decide
theorem test_ill_reserved_b : (fieldsOf 0x12530100).wellFormed = false := by decide
theorem test_ill_reserved_abm : (fieldsOf 0x21000001).wellFormed = false ∧ (fieldsOf 0x7F010000).wellFormed = false := by decide
theorem test_ill_reserved_bm : (fieldsOf 0x40100001).wellFormed = false ∧ (fieldsOf 0x40100100).wellFormed = false := by decide
theorem test_well_formed_word : (fieldsOf 0x10578300).wellFormed = true := by decide

/-! Decoding: words written out from R61 and R62 (op, a, b, m from the top) -/

theorem test_decode_gfadd : decode (0b00010000_01010111_10000011_00000000 : CommandWord) = .ok (.gfadd 0x57 0x83) := by decide
theorem test_decode_gfmul : decode (0b00010001_01010111_10000011_00011011 : CommandWord) = .ok (.gfmul 0x57 0x83 0x1B) := by decide
theorem test_decode_gfinv : decode (0b00010010_01010011_00000000_00011011 : CommandWord) = .ok (.gfinv 0x53 0x1B) := by decide
theorem test_decode_gfirr : decode (0b00010011_00011011_00000000_00000000 : CommandWord) = .ok (.gfirr 0x1B) := by decide
theorem test_decode_gfirrn : decode (0b00010100_00011101_00000000_00000000 : CommandWord) = .ok (.gfirrn 29) := by decide
theorem test_decode_cfg : decode (0b00100000_00001000_00000110_00011101 : CommandWord) = .ok (.cfg 8 6 0x1D) := by decide
theorem test_decode_sbgen : decode (0b00100001_00000000_00000000_00000000 : CommandWord) = .ok .sbgen := by decide
theorem test_decode_sbfwd : decode (0b00100010_01010011_00000000_00000000 : CommandWord) = .ok (.sbfwd 0x53) := by decide
theorem test_decode_sbinv : decode (0b00100011_11101101_00000000_00000000 : CommandWord) = .ok (.sbinv 0xED) := by decide
theorem test_decode_kexp : decode (0b00110000_00010000_00000000_00000000 : CommandWord) = .ok (.kexp 16) := by decide
theorem test_decode_rcon : decode (0b00110001_00001001_00000000_00000000 : CommandWord) = .ok (.rcon 9) := by decide
theorem test_decode_encb : decode (0b01000000_00010000_00000000_00000000 : CommandWord) = .ok (.encb 16) := by decide
theorem test_decode_decb : decode (0b01000001_00010000_00000000_00000000 : CommandWord) = .ok (.decb 16) := by decide
theorem test_decode_ctxinit : decode (0b01010000_00000001_00000010_00010000 : CommandWord) = .ok (.ctxinit 1 2 16) := by decide
theorem test_decode_start : decode (0b01010001_00000001_00000000_00000000 : CommandWord) = .ok (.start 1) := by decide
theorem test_decode_mblk : decode (0b01010010_00010000_00000000_00000000 : CommandWord) = .ok (.mblk 16) := by decide
theorem test_decode_mpart : decode (0b01010011_00000101_00000000_00000000 : CommandWord) = .ok (.mpart 5) := by decide
theorem test_decode_pad : decode (0b01010100_00000101_00000000_00000000 : CommandWord) = .ok (.pad 5) := by decide
theorem test_decode_unpad : decode (0b01010101_00000000_00000000_00000000 : CommandWord) = .ok .unpad := by decide
theorem test_decode_wrb : decode (0b01100000_00000010_00001111_00110100 : CommandWord) = .ok (.wrb 2 15 0x34) := by decide
theorem test_decode_rdb : decode (0b01100001_00000011_00000010_00000000 : CommandWord) = .ok (.rdb 3 2) := by decide
theorem test_decode_rdst : decode (0b01110000_00001000_00000000_00000000 : CommandWord) = .ok (.rdst 8) := by decide
theorem test_decode_rst : decode (0b01111111_00000000_00000000_00000000 : CommandWord) = .ok .rst := by decide
theorem test_decode_table_word : decodeTableWord 32 0x61030200 = some (.rdb 3 2) ∧ decodeTableWord 32 0x10010203 = none := by decide

/-! Commands on the values of `95_test_vectors.md` -/

/-- Section 2.1. -/
theorem test_gfadd : reply (.gfadd 0x57 0x83) State.reset = some 0x00D4 := by decide
/-- Section 2.1. -/
theorem test_gfmul : reply (.gfmul 0x57 0x83 0x1B) State.reset = some 0x00C1 := by decide +kernel
/-- Section 2.1: the modulus byte 0. -/
theorem test_gfmul_modulus_zero : reply (.gfmul 0xFF 0xFF 0x00) State.reset = some 0x0055 := by decide +kernel
/-- Section 2.1. -/
theorem test_gfinv : reply (.gfinv 0x53 0x1B) State.reset = some 0x00CA := by decide +kernel
/-- Section 2.1: a reducible modulus. -/
theorem test_gfinv_reducible : reply (.gfinv 0x02 0x01) State.reset = some 0x0040 := by decide +kernel
/-- Section 2.1. -/
theorem test_gfirr : reply (.gfirr 0x8D) State.reset = some 0x0001 ∧ reply (.gfirr 0x1F) State.reset = some 0x0000 := by decide +kernel
/-- Section 2.1. -/
theorem test_gfirrn : reply (.gfirrn 29) State.reset = some 0x00F9 ∧ reply (.gfirrn 30) State.reset = some 0x4100 := by decide +kernel
/-- Section 3: command level. -/
theorem test_cfg : reply (.cfg 8 6 0x1D) State.reset = some 0x000E := by decide
/-- Program 4. -/
theorem test_cfg_param : reply (.cfg 4 5 0x1B) State.reset = some 0x1600 := by decide
/-- Section 1.2: the modulus `0x01`. -/
theorem test_sbgen_reducible : reply .sbgen reducible = some 0x1300 := by decide +kernel
/-- Section 3: command level. -/
theorem test_sbfwd_unconfigured : reply (.sbfwd 0x53) State.reset = some 0x2200 := by decide
/-- Section 3: the entry of the forward table for `0x1D`. -/
theorem test_forward_entry : lookup (forwardTable 0x1D) 0x53 = 0x68 := by
  have h : lookup (forwardTable 0x1D) 0x53 = affine (fieldInv 0x53 0x1D) := by simp [lookup, forwardTable]
  rw [h]; decide +kernel
/-- Section 4: the size check comes before the modulus check. -/
theorem test_kexp_order : reply (.kexp 24) reducible = some 0x1000 ∧ reply (.kexp 16) reducible = some 0x1300 := by decide +kernel
/-- Section 1.1: `W[4]` and `W[43]`. -/
theorem test_kexp_vector :
    after (.kexp 16) vectorState (fun t => (t.response, (wordAt t.w 4).toList, (wordAt t.w 43).toList)) =
      some (0x000B, [0xA0, 0xFA, 0xFE, 0x17], [0xB6, 0x63, 0x0C, 0xA6]) := by decide +kernel
/-- Section 4. -/
theorem test_rcon : reply (.rcon 29) State.reset = some 0x00C5 ∧ reply (.rcon 0) State.reset = some 0x4100 := by decide +kernel
/-- Section 4. -/
theorem test_rcon_period : reply (.rcon 51) State.reset = some 0x008D := by decide +kernel
/-- Section 5.5. -/
theorem test_encb_order : reply (.encb 24) configured = some 0x2000 ∧ reply (.encb 24) keyed = some 0x1100 := by decide
/-- Section 5.5. -/
theorem test_decb_size : reply (.decb 15) keyed = some 0x1100 := by decide
/-- Section 1.1: the ciphertext of the block vector. -/
theorem test_encb_vector :
    after (.encb 16) { vectorState with w := vectorSchedule, ksValid := true } (fun t => (t.response, blockOut t)) =
      some (0x0000, [0x39, 0x25, 0x84, 0x1D, 0x02, 0xDC, 0x09, 0xFB, 0xDC, 0x11, 0x85, 0x97, 0x19, 0x6A, 0x0B, 0x32]) := by
  decide +kernel
/-- Section 1.1: its decryption. -/
theorem test_decb_vector :
    after (.decb 16)
      { holding vectorState .din [0x39, 0x25, 0x84, 0x1D, 0x02, 0xDC, 0x09, 0xFB, 0xDC, 0x11, 0x85, 0x97, 0x19, 0x6A, 0x0B, 0x32]
        with w := vectorSchedule, ksValid := true } (fun t => (t.response, blockOut t)) =
      some (0x0000, [0x32, 0x43, 0xF6, 0xA8, 0x88, 0x5A, 0x30, 0x8D, 0x31, 0x31, 0x98, 0xA2, 0xE0, 0x37, 0x07, 0x34]) := by
  decide +kernel
/-- Section 5.1: ShiftRows for 8 columns, read from which position. -/
theorem test_shift_rows_eight :
    (store (shiftRows (nb := .eight) (load (Vector.ofFn fun k => BitVec.ofNat 8 k.val)))).toList =
      [0x00, 0x05, 0x0E, 0x13, 0x04, 0x09, 0x12, 0x17, 0x08, 0x0D, 0x16, 0x1B, 0x0C, 0x11, 0x1A, 0x1F] ++
      [0x10, 0x15, 0x1E, 0x03, 0x14, 0x19, 0x02, 0x07, 0x18, 0x1D, 0x06, 0x0B, 0x1C, 0x01, 0x0A, 0x0F] := by decide +kernel
/-- Section 5.1: MixColumns and InvMixColumns on one column. -/
theorem test_mix_column :
    (List.finRange 4).map (mixRow mixFirst 0x1B #v[0xDB, 0x13, 0x53, 0x45]) = [0x8E, 0x4D, 0xA1, 0xBC] ∧
    (List.finRange 4).map (mixRow invMixFirst 0x1B #v[0x8E, 0x4D, 0xA1, 0xBC]) = [0xDB, 0x13, 0x53, 0x45] := by decide +kernel
/-- Section 6.4. -/
theorem test_ctxinit : reply (.ctxinit 1 1 0) configured = some 0x1400 ∧ reply (.ctxinit 1 1 24) configured = some 0x1200 := by decide
/-- Section 6.4: an unrecognised mode is stored and refused by `START`. -/
theorem test_ctxinit_stores : after (.ctxinit 9 1 16) configured (fun t => (t.response, t.mode, t.ctxValid)) = some (0x0000, 9, true) := by decide
/-- Section 6.4. -/
theorem test_start_errors : reply (.start 0) (context 9 1) = some 0x1500 ∧ reply (.start 2) (context 1 1) = some 0x4100 := by decide
/-- Program 3: `FB0` is the IV, `DIR` is 1. -/
theorem test_start_cbc :
    after (.start 1) (holding (context 1 1) .ivbuf [0xA0, 0xA1]) (fun t => (t.fb0[0], t.fb0[1], t.fb0[16], t.dir, t.run)) =
      some (0xA0, 0xA1, 0x00, true, true) := by decide +kernel
/-- Program 4 and program 5. -/
theorem test_mblk_errors : reply (.mblk 24) (opened 0) = some 0x1100 ∧ reply (.mblk 16) (context 0 1) = some 0x2100 := by decide
/-- Section 6.2. -/
theorem test_mpart_errors : reply (.mpart 5) (opened 6) = some 0x1100 ∧ reply (.mpart 16) (opened 5) = some 0x4100 := by decide
/-- Section 6.1: the counter block after IV `0001020304050607ffffffffffffffff`: no carry into byte 7. -/
theorem test_counter_wrap :
    ctrBlock (n := 16) #v[0, 1, 2, 3, 4, 5, 6, 7, 0xFF, 0xFF, 0xFF, 0xFF, 0xFF, 0xFF, 0xFF, 0xFF] 1 =
      #v[0, 1, 2, 3, 4, 5, 6, 7, 0, 0, 0, 0, 0, 0, 0, 0] := by decide
/-- Section 6.1: `Seed(IV, 1)` for IV `00..0f`. -/
theorem test_delta_seed : deltaSeed (n := 16) #v[0, 1, 2, 3, 4, 5, 6, 7, 8, 9, 10, 11, 12, 13, 14, 15] 1 = 0x0C0D0E0E := by decide
/-- Section 7.1: ANSIX923, `PAD 13`. -/
theorem test_pad_ansi :
    after (.pad 13) (holding (context 0 2) .din [0x11, 0x22, 0x33, 0x44, 0x55, 0x66, 0x77, 0x88, 0x99, 0xAA, 0xBB, 0xCC, 0xDD, 0xEE])
      (fun t => (t.response, t.byte .din 12, t.byte .din 13, t.byte .din 14, t.byte .din 15)) =
      some (0x0010, 0xDD, 0x00, 0x00, 0x03) := by decide +kernel
/-- Section 7.1: the stream-style mode CTR and an unrecognised padding. -/
theorem test_pad_stream : reply (.pad 17) (context 5 7) = some 0x4100 ∧ reply (.pad 3) (context 0 7) = some 0x1500 := by decide
/-- Section 7.2: `p cc030203` under PKCS7 and under ISO10126. -/
theorem test_unpad_fill :
    reply .unpad (holding (context 0 1) .dout (List.replicate 12 0x5A ++ [0xCC, 0x03, 0x02, 0x03])) = some 0x3000 ∧
    reply .unpad (holding (context 0 3) .dout (List.replicate 12 0x5A ++ [0xCC, 0x03, 0x02, 0x03])) = some 0x000D := by decide +kernel
/-- Section 7.2: `p cc000003` and `p cc010003` under ANSIX923. -/
theorem test_unpad_ansi :
    reply .unpad (holding (context 0 2) .dout (List.replicate 12 0x5A ++ [0xCC, 0x00, 0x00, 0x03])) = some 0x000D ∧
    reply .unpad (holding (context 0 2) .dout (List.replicate 12 0x5A ++ [0xCC, 0x01, 0x00, 0x03])) = some 0x3000 := by decide +kernel
/-- Section 8. -/
theorem test_wrb : reply (.wrb 3 0 1) State.reset = some 0x4100 ∧ reply (.wrb 2 32 1) State.reset = some 0x4100 := by decide
/-- R41: the top byte of `DIN`; its neighbour in `DOUT` is not touched. -/
theorem test_wrb_top : after (.wrb 2 31 0x5A) State.reset (fun t => (t.byte .din 31, t.byte .dout 0)) = some (0x5A, 0x00) := by decide
/-- Section 8. -/
theorem test_rdb : reply (.rdb 0 0) State.reset = some 0x4100 ∧ reply (.rdb 2 32) State.reset = some 0x4100 := by decide
/-- R221. -/
theorem test_rdb_dout : reply (.rdb 3 1) (holding State.reset .dout [0x39, 0x25]) = some 0x0025 := by decide
/-- Section 8 and the end of program 4. -/
theorem test_rdst : reply (.rdst 3) State.reset = some 0x000A ∧ reply (.rdst 9) State.reset = some 0x4100 := by decide
/-- R27: `RDST 0` with an open call, as at the end of program 3. -/
theorem test_rdst_flags : reply (.rdst 0) { opened 1 with dir := true } = some 0x007F := by decide
/-- Program 4. -/
theorem test_rst : after .rst { opened 1 with eflags := 0x0B } (fun t => (t.response, t.eflags, t.flags)) = some (0x0000, 0x00, 0x00) := by decide

/-! A step takes the host's word; an illegal word answers `0x4000` (section 8) -/

theorem test_step_illegal : step (issuing 0x40100001) = .next { State.reset with err := 0x40, eflags := 0x08 } := rfl
theorem test_step_word : step (State.reset.withFetchWord 32 0x10578300) = .next { State.reset with res := 0xD4 } := rfl

/-! Witnesses: for every statement with hypotheses, a state and operands that meet them, and one for each of its clauses -/

theorem witness_EncodeOfDecodeIsTheWord : decode 0xFFFFFFFF ≠ .ok .rst ∧ decode 0x7F000000 = .ok .rst := by decide

theorem witness_MaskTableSelectsCommands :
    (0x10000000, 0xFF0000FF) ∈ maskTable ∧ ((0x10FFFF00 : CommandWord) &&& 0xFF0000FF) = 0x10000000 ∧
    (0x7F000000, 0xFFFFFFFF) ∈ maskTable := by decide

theorem witness_NonzeroReservedFieldIsIllegal :
    (issuing 0x10010203).host = [.command 0x10010203] ∧
    fieldUse (fieldsOf 0x10010203).op = some .ab ∧ (fieldsOf 0x10010203).reservedZero .ab = false ∧
    fieldUse (fieldsOf 0x7F010000).op = some .none ∧ (fieldsOf 0x7F010000).reservedZero .none = false ∧
    fieldUse (fieldsOf 0x10FFFF00).op = some .ab ∧ (fieldsOf 0x10FFFF00).reservedZero .ab = true := by decide

/-- The ends of the nine ranges of R64 are met by words, and the neighbours outside them are listed opcodes. -/
theorem witness_UnlistedOpcodeIsIllegal :
    (issuing 0x15000000).host = [.command 0x15000000] ∧ (0x15000000 : CommandWord).toNat / 2 ^ 24 = 0x15 ∧
    ([0x00, 0x0F, 0x15, 0x1F, 0x24, 0x2F, 0x32, 0x3F, 0x42, 0x4F, 0x56, 0x5F, 0x62, 0x6F, 0x71, 0x7E, 0x80, 0xFF].all fun op =>
      decode (wordOf ⟨op, 0, 0, 0⟩) = .error .unknownOpcode) ∧
    ([0x10, 0x14, 0x20, 0x23, 0x30, 0x31, 0x40, 0x41, 0x50, 0x55, 0x60, 0x61, 0x70, 0x7F].all fun op =>
      (fieldUse op).isSome) := by decide

theorem witness_StepRunsTheDecodedCommand :
    (issuing 0x7F000000).host = .command 0x7F000000 :: [] ∧ decode 0x7F000000 = .ok .rst := by decide

theorem witness_GfinvAnswersInverse :
    isIrreducible 0x1B = true ∧ isIrreducible 0xF9 = true ∧ isIrreducible 0x00 = false ∧ isIrreducible 0xFF = false ∧
    fieldInv 0x01 0xF9 = 1 := by decide +kernel

theorem witness_GfirrDecidesIrreducibility :
    2 ≤ (0x02 : Byte).toNat ∧ 2 ≤ (0x80 : Byte).toNat ∧ isIrreducible 0x1B = true ∧
    carryless 0x03 0xFF = (0x101 : BitVec 16) ∧ isIrreducible 0x01 = false := by decide +kernel

theorem witness_GfirrnEnumeratesIrreducibles :
    exec (.gfirrn 28) State.reset = .next { State.reset with res := 0xF5 } ∧
    exec (.gfirrn 29) State.reset = .next { State.reset with res := 0xF9 } ∧
    30 ≤ (30 : Byte).toNat ∧ isIrreducible 0xF9 = true :=
  ⟨rfl, rfl, by decide, by decide +kernel⟩

theorem witness_CfgBeginsAnInstance :
    ((5 : Byte) ≠ 4 ∧ (5 : Byte) ≠ 6 ∧ (5 : Byte) ≠ 8) ∧ ((0 : Byte) ≠ 4 ∧ (0 : Byte) ≠ 6 ∧ (0 : Byte) ≠ 8) := by decide

theorem witness_SbgenBuildsTheTables :
    State.reset.cfgValid = false ∧
    (reducible.cfgValid = true ∧ reducible.sbValid = false ∧ isIrreducible reducible.modulus = false) ∧
    (configured.cfgValid = true ∧ configured.sbValid = false ∧ isIrreducible configured.modulus = true) ∧
    keyed.cfgValid = true ∧ keyed.sbValid = true := by decide +kernel

theorem witness_SboxLookupsAnswerEntries :
    State.reset.cfgValid = false ∧
    (reducible.cfgValid = true ∧ reducible.sbValid = false ∧ isIrreducible reducible.modulus = false) ∧
    (configured.cfgValid = true ∧ isIrreducible configured.modulus = true) ∧ keyed.cfgValid = true ∧ keyed.sbValid = true := by
  decide +kernel

theorem canonical_irreducible : isIrreducible 0x1B = true := by decide +kernel

theorem built_tables : built.TablesCurrent := by
  simp only [State.TablesCurrent, built, configured, State.reset]
  exact fun _ => ⟨canonical_irreducible, trivial, trivial⟩

theorem witness_TablesAreMutualInverses : built.TablesCurrent ∧ built.sbValid = true := ⟨built_tables, rfl⟩

/-- The clauses of the schedule: the key, the three cases of `temp` (the middle one only for 8 key words), the words beyond. -/
theorem witness_KexpExpandsTheKey :
    State.reset.cfgValid = false ∧ (15 : Byte).toNat ≠ 4 * configured.nk.toNat ∧ (16 : Byte).toNat = 4 * configured.nk.toNat ∧
    (reducible.cfgValid = true ∧ reducible.sbValid = false ∧ isIrreducible reducible.modulus = false) ∧
    configured.cfgValid = true ∧ isIrreducible configured.modulus = true ∧ 3 < configured.nk.toNat ∧
    (configured.nk.toNat ≤ 4 ∧ 4 < configured.nb.toNat * (configured.nr.toNat + 1) ∧ 4 % configured.nk.toNat = 0) ∧
    (43 < configured.nb.toNat * (configured.nr.toNat + 1) ∧ 43 % configured.nk.toNat ≠ 0 ∧ ¬6 < configured.nk.toNat) ∧
    6 < WordCount.eight.toNat ∧ 12 % WordCount.eight.toNat = 4 := by decide +kernel

theorem witness_KexpKeepsTheWordsBeyond :
    (∃ t, exec (.kexp 16) built = .next t ∧ t.ksValid = true) ∧ built.nb.toNat * (built.nr.toNat + 1) ≤ 44 :=
  ⟨⟨_, rfl, rfl⟩, by decide⟩

theorem witness_RconAnswersByDoubling :
    1 ≤ (254 : Byte).toNat ∧ (254 : Byte).toNat < 255 ∧ 1 ≤ (204 : Byte).toNat ∧ (204 : Byte).toNat + 51 ≤ 255 := by decide

theorem witness_EncbEncryptsTheBlock :
    State.reset.cfgValid = false ∧ (configured.cfgValid = true ∧ configured.ksValid = false) ∧
    (keyed.cfgValid = true ∧ keyed.ksValid = true ∧ (15 : Byte).toNat ≠ 4 * keyed.nb.toNat ∧
      (16 : Byte).toNat = 4 * keyed.nb.toNat) ∧
    15 < blockBytes keyed.nb ∧ blockBytes keyed.nb ≤ 16 ∧
    ¬(Buffer.dout.addr 0 ≤ 95 ∧ 95 < Buffer.dout.addr 0 + 32) ∧ ¬(Buffer.dout.addr 0 ≤ 128 ∧ 128 < Buffer.dout.addr 0 + 32) := by
  decide

theorem witness_DecbDecryptsTheBlock :
    State.reset.cfgValid = false ∧ (configured.cfgValid = true ∧ configured.ksValid = false) ∧
    keyed.cfgValid = true ∧ keyed.ksValid = true ∧ (17 : Byte).toNat ≠ 4 * keyed.nb.toNat ∧
    (16 : Byte).toNat = 4 * keyed.nb.toNat := by decide

theorem expanded_tables : expanded.TablesCurrent := by
  simp only [State.TablesCurrent, expanded, built, configured, State.reset]
  exact fun _ => ⟨canonical_irreducible, trivial, trivial⟩

theorem witness_RoundStepsAreInvertible : built.TablesCurrent ∧ built.sbValid = true := ⟨built_tables, rfl⟩

theorem witness_AffineIsTheXorOfRotations : affineBit 0x80 0 = false ∧ affineBit 0x80 7 = true ∧ (7 : Nat) < 8 := by decide

theorem witness_RoundStepsByEntries : 3 < 4 ∧ 7 < WordCount.eight.toNat ∧ rowShift .eight 3 = 4 ∧ rowShift .six 3 = 3 := by decide

/-- The rows and columns at both ends, and a first, a middle and the last round. -/
theorem witness_EncryptBlockFollowsTheRounds :
    0 < 4 ∧ 3 < 4 ∧ 3 < expanded.nb.toNat ∧ 1 < expanded.nr.toNat ∧ 9 < expanded.nr.toNat ∧ 10 ≤ expanded.nr.toNat := by decide

theorem witness_DecryptBlockFollowsTheRounds :
    3 < 4 ∧ 3 < expanded.nb.toNat ∧ 1 ≤ expanded.nr.toNat ∧ 9 < expanded.nr.toNat ∧ 10 ≤ expanded.nr.toNat := by decide

theorem witness_BlockRoundTrip :
    expanded.cfgValid = true ∧ expanded.ksValid = true ∧ expanded.sbValid = true ∧ expanded.TablesCurrent :=
  ⟨rfl, rfl, rfl, expanded_tables⟩

theorem witness_CtxinitStoresTheContext :
    State.reset.cfgValid = false ∧ configured.cfgValid = true ∧ (1 : Byte) ≠ 0 ∧ (15 : Byte).toNat ≠ 4 * configured.nb.toNat ∧
    (16 : Byte).toNat = 4 * configured.nb.toNat := by decide

theorem witness_StartOpensTheCall :
    State.reset.cfgValid = false ∧ (keyed.cfgValid = true ∧ keyed.ctxValid = false) ∧
    (({ configured with ctxValid := true } : State).ctxValid = true ∧ configured.ksValid = false) ∧
    (∀ mode, (context mode 1).cfgValid = true ∧ (context mode 1).ctxValid = true ∧ (context mode 1).ksValid = true ∧
      (context mode 1).mode = mode) ∧
    6 < (7 : Byte).toNat ∧ (6 : Byte).toNat ≤ 6 ∧ 1 < (2 : Byte).toNat ∧ (1 : Byte).toNat ≤ 1 :=
  ⟨rfl, ⟨rfl, rfl⟩, ⟨rfl, rfl⟩, fun _ => ⟨rfl, rfl, rfl, rfl⟩, by decide⟩

theorem witness_MblkProcessesTheBlock :
    State.reset.cfgValid = false ∧ (configured.cfgValid = true ∧ configured.run = false) ∧
    ∀ mode : Mode, (opened mode.selector).cfgValid = true ∧ (opened mode.selector).run = true ∧
      (15 : Byte).toNat ≠ 4 * (opened mode.selector).nb.toNat ∧ (16 : Byte).toNat = 4 * (opened mode.selector).nb.toNat ∧
      (opened mode.selector).mode = mode.selector :=
  ⟨rfl, ⟨rfl, rfl⟩, fun _ => ⟨rfl, rfl, (by decide : (15 : Byte).toNat ≠ 16), rfl, rfl⟩⟩

theorem witness_MblkStopsWithoutMode :
    (opened 7).cfgValid = true ∧ (opened 7).run = true ∧ (16 : Byte).toNat = 4 * (opened 7).nb.toNat ∧
    6 < (opened 7).mode.toNat := by decide

theorem witness_MpartProcessesTheTail :
    (configured.cfgValid = true ∧ configured.run = false) ∧
    ((opened 2).run = true ∧ (opened 2).mode.toNat ∉ [3, 4, 5] ∧ (opened 6).mode.toNat ∉ [3, 4, 5]) ∧
    ((opened 5).cfgValid = true ∧ (opened 5).run = true ∧ (opened 5).mode.toNat ∈ [3, 4, 5] ∧
      (opened 3).mode.toNat ∈ [3, 4, 5]) ∧
    ((0 : Byte).toNat < 1 ∧ blockBytes (opened 5).nb ≤ (16 : Byte).toNat) ∧
    1 ≤ (1 : Byte).toNat ∧ (15 : Byte).toNat < blockBytes (opened 5).nb := by decide

theorem witness_TailRoundTrip :
    (opened 3).cfgValid = true ∧ (opened 3).run = true ∧ (opened 3).mode.toNat ∈ [3, 4, 5] ∧ 1 ≤ (15 : Byte).toNat ∧
    (15 : Byte).toNat < blockBytes (opened 3).nb := by decide

theorem witness_CounterBlockAddsTheIndex : 7 < blockBytes .four - 8 ∧ 23 < blockBytes .eight - 8 := by decide

theorem witness_PadFillsTheBlock :
    State.reset.cfgValid = false ∧ (configured.cfgValid = true ∧ configured.ctxValid = false) ∧
    (6 < (context 7 1).mode.toNat ∧ (context 7 1).ctxValid = true ∧ (context 7 1).cfgValid = true) ∧
    (3 ≤ (context 3 1).mode.toNat ∧ (context 6 1).mode.toNat ≤ 6 ∧ blockBytes (context 6 1).nb < (17 : Byte).toNat ∧
      (16 : Byte).toNat ≤ blockBytes (context 6 1).nb) ∧
    ((context 2 4).mode.toNat < 3 ∧ 3 < (context 2 4).padsel.toNat) ∧
    ((context 2 3).padsel.toNat ≤ 3 ∧ blockBytes (context 2 3).nb ≤ (16 : Byte).toNat ∧
      (15 : Byte).toNat < blockBytes (context 2 3).nb) ∧
    (∀ p : Byte, (context 0 p).padsel = p) := ⟨rfl, ⟨rfl, rfl⟩, by decide, by decide, by decide, by decide, fun _ => rfl⟩

theorem witness_UnpadReportsTheLength :
    State.reset.cfgValid = false ∧ (configured.cfgValid = true ∧ configured.ctxValid = false) ∧
    (6 < (context 7 1).mode.toNat ∧ 3 ≤ (context 3 1).mode.toNat ∧ (context 6 1).mode.toNat ≤ 6) ∧
    (3 < (context 0 4).padsel.toNat ∧ (context 2 0).mode.toNat < 3 ∧ (context 2 0).padsel = 0) ∧
    ((context 0 1).byte .dout 15).toNat < 1 ∧
    blockBytes (context 0 1).nb < ((holding (context 0 1) .dout (List.replicate 16 0x11)).byte .dout 15).toNat ∧
    (holding (context 0 1) .dout (List.replicate 14 0x02 ++ [0x01, 0x02])).byte .dout 14 ≠ 2 ∧
    (holding (context 0 1) .dout (List.replicate 14 0x02 ++ [0x01, 0x02])).byte .dout 15 = 2 ∧
    (holding (context 0 1) .dout (List.replicate 16 0x10)).byte .dout 0 = 0x10 ∧
    (holding (context 0 1) .dout (List.replicate 16 0x10)).byte .dout 15 = 0x10 := by decide +kernel

theorem witness_UnpadUndoesPad :
    (context 2 3).cfgValid = true ∧ (context 2 3).ctxValid = true ∧ (context 2 3).mode.toNat < 3 ∧
    1 ≤ (context 2 1).padsel.toNat ∧ (context 2 3).padsel.toNat ≤ 3 ∧ (15 : Byte).toNat < blockBytes (context 2 3).nb := by decide

/-- A cipher that XORs the block with a constant, its own inverse. -/
theorem witness_MessageRoundTrip (x y : Bytes 16) : xorBytes (xorBytes x y) y = x := xorBytes_cancel x y

theorem witness_ParallelModesAreIndependent :
    Mode.ecb.parallelEncrypt = true ∧ Mode.ctr.parallelEncrypt = true ∧ Mode.cbc.parallelDecrypt = true := by decide

theorem witness_WrbWritesOneByte :
    2 < (3 : Byte).toNat ∧ 31 < (32 : Byte).toNat ∧ Buffer.din.id = (2 : Byte).toNat ∧ Buffer.keybuf.id = (0 : Byte).toNat ∧
    (31 : Byte).toNat ≤ 31 ∧ Buffer.dout.addr 0 ≠ Buffer.din.addr 31 := by decide

theorem witness_RdbAnswersTheByte :
    ((1 : Byte).toNat ≠ 2 ∧ (1 : Byte).toNat ≠ 3) ∧ ((4 : Byte).toNat ≠ 2 ∧ (4 : Byte).toNat ≠ 3) ∧ 31 < (32 : Byte).toNat ∧
    (31 : Byte).toNat ≤ 31 := by decide

theorem witness_RdstAnswersTheStatus : 8 < (9 : Byte).toNat := by decide

theorem witness_RstIsHardwareReset :
    ({ opened 1 with host := [.hardwareReset] } : State).host = .hardwareReset :: [] := rfl

theorem witness_ErrorsArePrecise : ∃ t, exec (.rcon 0) State.reset = .next t ∧ t.err ≠ 0x00 := ⟨_, rfl, by decide⟩

theorem witness_FirstFailingCheckDecides : ∃ t, exec (.encb 24) configured = .next t ∧ t.err = 0x20 := ⟨_, rfl, by decide⟩

theorem witness_ErrorCodesAreThoseListed :
    (∃ t, exec .unpad State.reset = .next t) ∧ 0x30 ∈ mayAnswer .unpad ∧
    (issuing 0x10010203).host = .command 0x10010203 :: [] ∧ decode 0x10010203 = .error .reservedField ∧
    ∃ t, step (issuing 0x10010203) = .next t := ⟨⟨_, rfl⟩, by decide, rfl, by decide, ⟨_, rfl⟩⟩

theorem witness_EveryCommandAnswers : (opened 6).run = true ∧ (opened 6).mode.toNat ≤ 6 ∧ State.reset.run = false := by decide

theorem witness_EflagsAreSticky :
    ∃ t, exec (.rcon 0) { State.reset with eflags := 0x01 } = .next t ∧ t.err.toNat / 16 = 4 ∧ t.eflags = 0x09 :=
  ⟨_, rfl, by decide⟩

theorem witness_RegistersHaveOnlyTheirWriters :
    (∃ t, exec (.pad 15) (context 0 1) = .next t ∧ (context 0 1).sbValid = true) ∧
    (∃ t, exec (.kexp 16) built = .next t ∧ built.ksValid = false ∧ t.ksValid = true) ∧
    (∃ t, exec (.ctxinit 0 1 0) configured = .next t ∧ configured.ctxValid = false ∧ t.ctxValid = true) ∧
    (∃ t, exec (.start 0) (context 0 1) = .next t ∧ (context 0 1).run = false ∧ t.run = true) ∧
    (∃ t, exec (.mpart 15) (opened 5) = .next t ∧ (opened 5).run = true ∧ t.run = false) ∧
    ∃ t, exec (.mblk 16) (opened 5) = .next t ∧ t.run = true :=
  ⟨⟨_, rfl, rfl⟩, ⟨_, rfl, rfl, rfl⟩, ⟨_, rfl, rfl, rfl⟩, ⟨_, rfl, rfl, rfl⟩, ⟨_, rfl, rfl, rfl⟩, ⟨_, rfl, rfl⟩⟩

theorem witness_BuffersHaveOnlyTheirWriters : ∃ t, exec (.wrb 2 31 5) State.reset = .next t ∧ t.byte .din 31 = 5 :=
  ⟨_, rfl, by decide⟩

theorem witness_KeyBufferIsNotReadable :
    SameButKeybuf State.reset (State.reset.setByte .keybuf 31 0x5A) ∧ ∃ t, exec (.rdb 2 0) State.reset = .next t :=
  ⟨⟨rfl, fun a ha => by
    show Memory.read [(31, 0x5A)] a = Memory.read [] a
    unfold bufferSize at ha
    have h : (31 : Nat) ≠ a := by omega
    simp [Memory.read, h]⟩, ⟨_, rfl⟩⟩

theorem reset_inv : State.reset.Inv :=
  ⟨by decide, by decide, fun h => absurd h (by decide), fun h => absurd h (by decide), by decide⟩

theorem expanded_schedule : expanded.ScheduleCurrent := by
  intro _
  refine ⟨built.bytes .keybuf (keyBytes built.nk), ?_⟩
  simp only [expanded, State.expandKey]
  exact (keyExpand_spec built.nk.toNat (scheduleWords built.nb built.nr) (built.bytes .keybuf (keyBytes built.nk)) built.sbf
    (roundModulus built.modulus) built.w (by decide) (by decide)).1

/-- A state with a built S-box and an expanded key meets the invariant. -/
theorem witness_InvariantIsKeptByEveryStep : expanded.Inv ∧ ∃ t, step expanded = .next t :=
  ⟨⟨by decide, by decide, expanded_tables, expanded_schedule, by decide⟩, ⟨expanded, by simp only [step, State.fetch, expanded, built, configured, State.reset]⟩⟩

theorem witness_TheUnitNeverStops : State.reset.Inv ∧ expanded.Inv := ⟨reset_inv, witness_InvariantIsKeptByEveryStep.1⟩

end Sys2Proof.Tests
end

/-! PROOFS. Illegal words (`30_encoding.md` rules R63, R64): the decoder against the columns `op` and "fields used" of
R62, what one step makes of a command word, and the two statements that follow. -/

namespace Sys2Proof

/-- R62, R63: on each row of the field-use table the decoder checks exactly the fields that row leaves unused. -/
theorem decodeFields_of_mem_fieldUseTable (a b m : Byte) : ∀ row ∈ fieldUseTable,
    ∃ i, decodeFields ⟨row.1, a, b, m⟩ = ifReservedZero (Fields.reservedZero ⟨row.1, a, b, m⟩ row.2) i := by
  have gfinvRow : ∃ i, decodeFields ⟨0x12, a, b, m⟩ = ifReservedZero (Fields.reservedZero ⟨0x12, a, b, m⟩ .am) i :=
    ⟨.gfinv a m, by simp [decodeFields, Fields.reservedZero, FieldUse.am]⟩
  simp only [fieldUseTable, List.cons_append, List.nil_append, List.forall_mem_cons]
  exact ⟨⟨.gfadd a b, rfl⟩, ⟨.gfmul a b m, rfl⟩, gfinvRow, ⟨.gfirr a, rfl⟩, ⟨.gfirrn a, rfl⟩,
    ⟨.cfg a b m, rfl⟩, ⟨.sbgen, rfl⟩, ⟨.sbfwd a, rfl⟩, ⟨.sbinv a, rfl⟩, ⟨.kexp a, rfl⟩, ⟨.rcon a, rfl⟩,
    ⟨.encb a, rfl⟩, ⟨.decb a, rfl⟩, ⟨.ctxinit a b m, rfl⟩, ⟨.start a, rfl⟩, ⟨.mblk a, rfl⟩, ⟨.mpart a, rfl⟩,
    ⟨.pad a, rfl⟩, ⟨.unpad, rfl⟩, ⟨.wrb a b m, rfl⟩, ⟨.rdb a b, rfl⟩, ⟨.rdst a, rfl⟩, ⟨.rst, rfl⟩,
    List.forall_mem_nil _⟩

theorem mem_fieldUseTable_of_fieldUse {op : Byte} {u : FieldUse} (h : fieldUse op = some u) :
    (op, u) ∈ fieldUseTable := by
  obtain ⟨before, after, htable, -⟩ := List.lookup_eq_some_iff.mp h
  simp [htable]

/-- R63: for a listed opcode the decoder's answer turns on the reserved fields alone. -/
theorem decodeFields_of_fieldUse {f : Fields} {u : FieldUse} (h : fieldUse f.op = some u) :
    ∃ i, decodeFields f = ifReservedZero (f.reservedZero u) i :=
  decodeFields_of_mem_fieldUseTable f.a f.b f.m (f.op, u) (mem_fieldUseTable_of_fieldUse h)

/-- The opcodes the table of R62 does not list are those of the nine ranges of R64. -/
theorem fieldUse_eq_none_iff (op : Byte) : fieldUse op = none ↔
    op.toNat ≤ 0x0F ∨ (0x15 ≤ op.toNat ∧ op.toNat ≤ 0x1F) ∨ (0x24 ≤ op.toNat ∧ op.toNat ≤ 0x2F) ∨
    (0x32 ≤ op.toNat ∧ op.toNat ≤ 0x3F) ∨ (0x42 ≤ op.toNat ∧ op.toNat ≤ 0x4F) ∨
    (0x56 ≤ op.toNat ∧ op.toNat ≤ 0x5F) ∨ (0x62 ≤ op.toNat ∧ op.toNat ≤ 0x6F) ∨
    (0x71 ≤ op.toNat ∧ op.toNat ≤ 0x7E) ∨ 0x80 ≤ op.toNat := by
  revert op; decide

/-- R64: the decoder refuses every opcode the field-use table does not list. -/
theorem decodeFields_of_fieldUse_none {f : Fields} (h : fieldUse f.op = none) :
    decodeFields f = .error .unknownOpcode := by
  rw [fieldUse_eq_none_iff] at h
  unfold decodeFields
  split
  case h_24 => rfl
  all_goals omega

/-- R61: the opcode is the top byte of the word. -/
theorem fieldsOf_op_toNat (w : CommandWord) : (fieldsOf w).op.toNat = w.toNat / 2 ^ 24 := by
  simp only [fieldsOf, BitVec.extractLsb'_toNat, Nat.shiftRight_eq_div_pow]
  exact Nat.mod_eq_of_lt (by omega)

end Sys2Proof

namespace Sys2Proof.Machine

variable {s : State} {w : CommandWord} {rest : List HostEvent}

/-- R63, R64: raising `E_ILLEGAL`, its code and its bit of `EFLAGS` as numbers. -/
theorem State.raise_illegal (s : State) :
    s.raise .illegal = { s with err := 0x40, res := 0x00, eflags := s.eflags ||| 0x08 } := rfl

/-- R11: a step takes the host's next command word off the list and runs it. -/
theorem step_command (hs : s.host = .command w :: rest) : step s = runWord w { s with host := rest } := by
  simp [step, State.fetch, hs]

/-- R66, steps 3 to 5: a word that decodes runs its command. -/
theorem step_of_decode_ok {i : Instr} (hs : s.host = .command w :: rest) (hd : decode w = .ok i) :
    step s = exec i { s with host := rest } := by
  simp [step_command hs, runWord, hd]

/-- R66, steps 1 and 2: a word that does not decode raises `E_ILLEGAL` and nothing else happens. -/
theorem step_of_decode_error {e : DecodeError} (hs : s.host = .command w :: rest) (hd : decode w = .error e) :
    step s = .next { s with host := rest, err := 0x40, res := 0x00, eflags := s.eflags ||| 0x08 } := by
  simp [step_command hs, runWord, hd, State.raise_illegal]

end Sys2Proof.Machine

namespace Sys2Proof.Proofs

open Sys2Proof.Machine

/-- Settles O5: the decoder's answer for a listed opcode is `ifReservedZero` of the reserved fields, and the step follows
the decoder. -/
theorem nonzeroReservedFieldIsIllegal : Obligations.NonzeroReservedFieldIsIllegal := by
  unfold Obligations.NonzeroReservedFieldIsIllegal
  intro s w rest u hs hu
  obtain ⟨i, hi⟩ := decodeFields_of_fieldUse hu
  refine ⟨fun hz => ?_, fun hz => ?_⟩ <;> rw [hz] at hi
  · exact step_of_decode_error (e := .reservedField) hs hi
  · exact ⟨i, hi, step_of_decode_ok hs hi⟩

/-- Settles O6: the nine ranges are the opcodes outside the field-use table, which the decoder refuses. -/
theorem unlistedOpcodeIsIllegal : Obligations.UnlistedOpcodeIsIllegal := by
  unfold Obligations.UnlistedOpcodeIsIllegal
  intro s w rest op hs hop hrange
  rw [hop, ← fieldsOf_op_toNat] at hrange
  have hd : decode w = .error .unknownOpcode :=
    decodeFields_of_fieldUse_none ((fieldUse_eq_none_iff _).mpr hrange)
  exact ⟨hd, step_of_decode_error hs hd⟩

end Sys2Proof.Proofs

/-! PROOFS. Field arithmetic (`40_field_arithmetic.md` rules R80 to R91). A byte or a longer bit vector denotes a
polynomial over GF(2); `Mul` and `Inv` are then product and 254th power in the quotient by `x^8 + m`, and `IsIrreducible`
is irreducibility of `x^8 + p`. The statements about `GFADD`, `GFINV` and `GFIRR` follow. -/

namespace Sys2Proof.Machine

open Polynomial

/-! Bit vectors as polynomials over GF(2) -/

section BitPoly

variable {n : Nat}

/-- R9: the polynomial a bit vector denotes, bit `i` the coefficient of `x^i`. -/
noncomputable def bitPoly (v : BitVec n) : (ZMod 2)[X] :=
  ∑ i ∈ Finset.range n, if v.getLsbD i then X ^ i else 0

@[simp] theorem coeff_bitPoly (v : BitVec n) (i : Nat) : (bitPoly v).coeff i = if v.getLsbD i then 1 else 0 := by
  simp only [bitPoly, finsetSum_coeff, apply_ite (coeff · i), coeff_X_pow, coeff_zero]
  rw [Finset.sum_eq_single i (fun j _ hj => by simp [hj.symm])]
  · simp
  · intro hi
    simp [BitVec.getLsbD_of_ge v i (by simpa using hi)]

theorem bitPoly_injective : Function.Injective (bitPoly : BitVec n → (ZMod 2)[X]) := by
  intro a b h
  refine BitVec.eq_of_getLsbD_eq fun i _ => ?_
  have hi := congrArg (coeff · i) h
  simp only [coeff_bitPoly] at hi
  cases ha : a.getLsbD i <;> cases hb : b.getLsbD i <;> simp [ha, hb] at hi ⊢

@[simp] theorem bitPoly_zero : bitPoly 0#n = 0 := by ext i; simp

@[simp] theorem bitPoly_eq_zero_iff {v : BitVec n} : bitPoly v = 0 ↔ v = 0#n :=
  ⟨fun h => bitPoly_injective (h.trans bitPoly_zero.symm), fun h => h ▸ bitPoly_zero⟩

@[simp] theorem bitPoly_one : bitPoly 1#(n + 1) = 1 := by
  ext i
  simp [coeff_one, eq_comm]

theorem bitPoly_two : bitPoly (0b10 : Poly) = X := by
  simp [bitPoly, Finset.sum_range_succ]

/-- R80: addition of polynomials is the XOR. -/
@[simp] theorem bitPoly_xor (a b : BitVec n) : bitPoly (a ^^^ b) = bitPoly a + bitPoly b := by
  ext i
  cases ha : a.getLsbD i <;> cases hb : b.getLsbD i <;> simp [ha, hb, CharTwo.add_self_eq_zero]

theorem bitPoly_setWidth {k : Nat} (h : n ≤ k) (v : BitVec n) : bitPoly (v.setWidth k) = bitPoly v := by
  ext i
  have hi : v.getLsbD i = true → i < k := fun hv => (BitVec.lt_of_getLsbD hv).trans_le h
  cases hv : v.getLsbD i <;> simp_all

theorem degree_bitPoly_lt_iff {v : BitVec n} {k : Nat} : (bitPoly v).degree < k ↔ v.toNat < 2 ^ k := by
  have hbit (i : Nat) : (bitPoly v).coeff i = 0 ↔ v.toNat.testBit i = false := by
    simp [← BitVec.testBit_toNat]
  simp only [degree_lt_iff_coeff_zero, hbit]
  refine ⟨Nat.lt_pow_two_of_testBit _, fun h i hi => Nat.testBit_lt_two_pow ?_⟩
  exact h.trans_le (Nat.pow_le_pow_right two_pos hi)

theorem degree_bitPoly_lt (v : BitVec n) : (bitPoly v).degree < n := degree_bitPoly_lt_iff.mpr v.isLt

/-- The degree is the index of the highest set bit (R85). -/
theorem natDegree_bitPoly (v : BitVec n) : (bitPoly v).natDegree = v.toNat.log2 := by
  by_cases hv : v = 0#n
  · simp [hv]
  · have hn : v.toNat ≠ 0 := fun h => hv (BitVec.eq_of_toNat_eq (by simpa using h))
    refine eq_of_forall_gt_iff fun k => ?_
    rw [natDegree_lt_iff_degree_lt (by simpa using hv), degree_bitPoly_lt_iff, Nat.log2_lt hn]

theorem one_le_natDegree_bitPoly_iff {v : BitVec n} : 1 ≤ (bitPoly v).natDegree ↔ 2 ≤ v.toNat := by
  rw [natDegree_bitPoly]
  by_cases hv : v.toNat = 0
  · simp [hv]
  · simpa using Nat.le_log2 hv (k := 1)

/-- Every polynomial of degree below `n` is that of a bit vector of width `n`. -/
theorem exists_bitPoly_eq {f : (ZMod 2)[X]} (hf : f.degree < n) : ∃ v : BitVec n, bitPoly v = f := by
  refine ⟨BitVec.ofFnLE fun i => f.coeff i == 1, ?_⟩
  ext i
  have bit : ∀ c : ZMod 2, (if (c == 1) = true then 1 else 0) = c := by decide
  by_cases hi : i < n
  · simp only [coeff_bitPoly, BitVec.getLsbD_ofFnLE, hi, dite_true, bit]
  · simp [BitVec.getLsbD_ofFnLE, hi, (degree_lt_iff_coeff_zero f n).mp hf i (not_lt.mp hi)]

/-- A shift that loses no bit multiplies by a power of `x`. -/
theorem bitPoly_shiftLeft {v : BitVec n} {k : Nat} (h : v.toNat * 2 ^ k < 2 ^ n) :
    bitPoly (v <<< k) = X ^ k * bitPoly v := by
  ext i
  rw [coeff_X_pow_mul', coeff_bitPoly, coeff_bitPoly, ← BitVec.testBit_toNat, BitVec.toNat_shiftLeft,
    Nat.shiftLeft_eq, Nat.mod_eq_of_lt h, Nat.testBit_mul_two_pow, ← BitVec.testBit_toNat]
  by_cases hk : k ≤ i <;> simp [hk]

/-- A polynomial is `x` times the shift to the right, plus its lowest coefficient. -/
theorem bitPoly_eq_X_mul_add (v : BitVec n) :
    bitPoly v = X * bitPoly (v >>> 1) + C (if v.getLsbD 0 then 1 else 0) := by
  ext i
  cases i with
  | zero => rw [coeff_add, coeff_X_mul_zero, coeff_C_zero, zero_add, coeff_bitPoly]
  | succ i =>
    rw [coeff_add, coeff_X_mul, coeff_C_succ, add_zero, coeff_bitPoly, coeff_bitPoly, BitVec.getLsbD_ushiftRight,
      add_comm 1 i]

end BitPoly

theorem monic_of_ne_zero {f : (ZMod 2)[X]} (hf : f ≠ 0) : f.Monic := by
  have unit : ∀ c : ZMod 2, c ≠ 0 → c = 1 := by decide
  exact unit _ (leadingCoeff_ne_zero.mpr hf)

/-! The polynomial `x^8 + m` of a modulus byte -/

/-- R9, R85: the degree-8 polynomial a modulus byte denotes. -/
noncomputable def fieldPoly (m : Byte) : (ZMod 2)[X] := X ^ 8 + bitPoly m

theorem monic_fieldPoly (m : Byte) : (fieldPoly m).Monic := monic_X_pow_add (degree_bitPoly_lt m)

theorem degree_fieldPoly (m : Byte) : (fieldPoly m).degree = 8 := by
  rw [fieldPoly, degree_add_eq_left_of_degree_lt] <;> rw [degree_X_pow]
  · rfl
  · exact degree_bitPoly_lt m

theorem natDegree_fieldPoly (m : Byte) : (fieldPoly m).natDegree = 8 := natDegree_eq_of_degree_eq_some (degree_fieldPoly m)

theorem fieldPoly_ne_one (m : Byte) : fieldPoly m ≠ 1 := by
  intro h
  simpa [h] using natDegree_fieldPoly m

/-- `0x100 | m` at any width that holds it denotes `x^8 + m`. -/
theorem bitPoly_leading_or {n : Nat} (hn : 9 ≤ n) (m : Byte) :
    bitPoly (BitVec.twoPow n 8 ||| m.setWidth n) = fieldPoly m := by
  ext i
  have hi : m.getLsbD i = true → i < 8 := BitVec.lt_of_getLsbD
  rw [fieldPoly, coeff_add, coeff_X_pow, coeff_bitPoly, coeff_bitPoly, BitVec.getLsbD_or, BitVec.getLsbD_twoPow,
    BitVec.getLsbD_setWidth]
  rcases eq_or_ne i 8 with rfl | h8
  · have h8 : 8 < n := hn
    simp [h8]
  · have hin : i < 8 → i < n := fun h => by omega
    cases hm : m.getLsbD i <;> simp_all [h8.symm]

theorem bitPoly_modulusPoly (p : Byte) : bitPoly (modulusPoly p) = fieldPoly p := bitPoly_leading_or (n := 9) le_rfl p

/-! `PolyMod` and `IsIrreducible` (R85, R86) -/

theorem polyDeg_lt_iff {f : Poly} (hf : f ≠ 0) {k : Nat} : polyDeg f < k ↔ f.toNat < 2 ^ k :=
  Nat.log2_lt fun h => hf (BitVec.eq_of_toNat_eq h)

theorem degree_bitPoly_eq_polyDeg {f : Poly} (hf : f ≠ 0) : (bitPoly f).degree = polyDeg f := by
  rw [degree_eq_natDegree (bitPoly_eq_zero_iff.not.mpr hf), natDegree_bitPoly, polyDeg]

/-- A round of `PolyMod` subtracts a multiple of the divisor: no bit of the shifted divisor is lost. -/
theorem bitPoly_polyMod_round {f d : Poly} (hf : f ≠ 0) (hdf : polyDeg d ≤ polyDeg f) :
    bitPoly (f ^^^ (d <<< (polyDeg f - polyDeg d))) =
      bitPoly f - X ^ (polyDeg f - polyDeg d) * bitPoly d := by
  have hfits : d.toNat * 2 ^ (polyDeg f - polyDeg d) < 2 ^ 9 := by
    have hdeg : polyDeg f < 9 := (polyDeg_lt_iff hf).mpr f.isLt
    calc d.toNat * 2 ^ (polyDeg f - polyDeg d)
        < 2 ^ (polyDeg d + 1) * 2 ^ (polyDeg f - polyDeg d) := by gcongr; exact Nat.lt_log2_self
      _ = 2 ^ (polyDeg f + 1) := by rw [← pow_add]; congr 1; omega
      _ ≤ 2 ^ 9 := Nat.pow_le_pow_right two_pos hdeg
  rw [bitPoly_xor, bitPoly_shiftLeft hfits, CharTwo.sub_eq_add]

/-- A round of `PolyMod` cancels the leading term. -/
theorem polyMod_round_lt {f d : Poly} (hf : f ≠ 0) (hd : d ≠ 0) (hdf : polyDeg d ≤ polyDeg f) :
    (f ^^^ (d <<< (polyDeg f - polyDeg d))).toNat < 2 ^ polyDeg f := by
  have hf' : bitPoly f ≠ 0 := bitPoly_eq_zero_iff.not.mpr hf
  have hd' : bitPoly d ≠ 0 := bitPoly_eq_zero_iff.not.mpr hd
  have hdeg : (X ^ (polyDeg f - polyDeg d) * bitPoly d).degree = (bitPoly f).degree := by
    rw [degree_mul, degree_X_pow, degree_bitPoly_eq_polyDeg hd, degree_bitPoly_eq_polyDeg hf, ← Nat.cast_add,
      Nat.sub_add_cancel hdf]
  rw [← degree_bitPoly_lt_iff, bitPoly_polyMod_round hf hdf, ← degree_bitPoly_eq_polyDeg hf]
  refine degree_sub_lt_left hdeg.symm hf' ?_
  rw [monic_of_ne_zero hf', monic_of_ne_zero (mul_ne_zero (pow_ne_zero _ X_ne_zero) hd')]

theorem dvd_bitPoly_polyModLoop_iff (d : Poly) (k : Nat) (f : Poly) :
    bitPoly d ∣ bitPoly (polyModLoop d k f) ↔ bitPoly d ∣ bitPoly f := by
  induction k generalizing f with
  | zero => rfl
  | succ k ih =>
    rw [polyModLoop]
    split
    · next h => rw [ih, bitPoly_polyMod_round h.1 h.2, dvd_sub_left (dvd_mul_left _ _)]
    · rfl

/-- With enough rounds the answer of `PolyMod`'s loop has a smaller degree than the divisor. -/
theorem polyModLoop_lt {d : Poly} (hd : d ≠ 0) {k : Nat} {f : Poly} (hf : f.toNat < 2 ^ (polyDeg d + k)) :
    (polyModLoop d k f).toNat < 2 ^ polyDeg d := by
  induction k generalizing f with
  | zero => exact hf
  | succ k ih =>
    rw [polyModLoop]
    split
    · next h =>
      have hdeg : polyDeg f ≤ polyDeg d + k := Nat.lt_succ_iff.mp ((polyDeg_lt_iff h.1).mpr hf)
      exact ih ((polyMod_round_lt h.1 hd h.2).trans_le (Nat.pow_le_pow_right two_pos hdeg))
    · next h =>
      by_cases h0 : f = 0
      · simp [h0]
      · exact (polyDeg_lt_iff h0).mp (not_le.mp fun hle => h ⟨h0, hle⟩)

/-- R85: `PolyMod` answers 0 exactly for the multiples of the divisor. -/
theorem polyMod_eq_zero_iff {f d : Poly} (hd : d ≠ 0) : polyMod f d = 0 ↔ bitPoly d ∣ bitPoly f := by
  rw [← dvd_bitPoly_polyModLoop_iff d 9 f, ← polyMod]
  refine ⟨fun h => by rw [h]; simp, fun h => bitPoly_eq_zero_iff.mp (eq_zero_of_dvd_of_degree_lt h ?_)⟩
  rw [degree_bitPoly_eq_polyDeg hd, degree_bitPoly_lt_iff]
  exact polyModLoop_lt hd (f.isLt.trans_le (Nat.pow_le_pow_right two_pos (Nat.le_add_left 9 _)))

/-- R86: the divisors tried have degree 1 to 4. -/
theorem smallIrreducibles_range : ∀ d ∈ smallIrreducibles, 2 ≤ d.toNat ∧ d.toNat < 2 ^ 5 := by decide

theorem ne_zero_of_mem_smallIrreducibles {d : Poly} (hd : d ∈ smallIrreducibles) : d ≠ 0 := by
  rintro rfl
  exact absurd hd (by decide)

/-- R86: every polynomial of degree 1 to 4 has one of the eight as a factor. -/
theorem exists_smallIrreducible_polyMod (v : Fin 32) :
    2 ≤ v.val → ∃ d ∈ smallIrreducibles, polyMod (BitVec.ofNat 9 v.val) d = 0 := by
  revert v; decide +kernel

theorem exists_smallIrreducible_dvd {v : Poly} (h2 : 2 ≤ v.toNat) (h5 : v.toNat < 2 ^ 5) :
    ∃ d ∈ smallIrreducibles, bitPoly d ∣ bitPoly v := by
  obtain ⟨d, hd, h0⟩ := exists_smallIrreducible_polyMod ⟨v.toNat, h5⟩ h2
  exact ⟨d, hd, (polyMod_eq_zero_iff (ne_zero_of_mem_smallIrreducibles hd)).mp (by simpa using h0)⟩

theorem irreducible_fieldPoly_iff_no_smallIrreducible (p : Byte) :
    Irreducible (fieldPoly p) ↔ ∀ d ∈ smallIrreducibles, ¬ bitPoly d ∣ fieldPoly p := by
  rw [(monic_fieldPoly p).irreducible_iff_lt_natDegree_lt (fieldPoly_ne_one p), natDegree_fieldPoly]
  constructor
  · intro h d hd
    obtain ⟨h2, h5⟩ := smallIrreducibles_range d hd
    have hd0 : bitPoly d ≠ 0 := bitPoly_eq_zero_iff.not.mpr (ne_zero_of_mem_smallIrreducibles hd)
    refine h _ (monic_of_ne_zero hd0) (Finset.mem_Ioc.mpr ⟨one_le_natDegree_bitPoly_iff.mpr h2, ?_⟩)
    exact Nat.lt_succ_iff.mp ((natDegree_lt_iff_degree_lt hd0).mpr (degree_bitPoly_lt_iff.mpr h5))
  · intro h q hq hdeg hdvd
    obtain ⟨h1, h4⟩ := Finset.mem_Ioc.mp hdeg
    have hlt (k : Nat) (hk : 4 < k) : q.degree < k :=
      (natDegree_lt_iff_degree_lt hq.ne_zero).mp (h4.trans_lt hk)
    obtain ⟨v, rfl⟩ := exists_bitPoly_eq (hlt 9 (by decide))
    obtain ⟨d, hd, hv⟩ := exists_smallIrreducible_dvd (one_le_natDegree_bitPoly_iff.mp h1)
      (degree_bitPoly_lt_iff.mp (hlt 5 (by decide)))
    exact h d hd (hv.trans hdvd)

/-- R85: `IsIrreducible(p)` is irreducibility of `x^8 + p`. -/
theorem isIrreducible_iff (p : Byte) : isIrreducible p = true ↔ Irreducible (fieldPoly p) := by
  have hmod (d) (hd : d ∈ smallIrreducibles) : polyMod (modulusPoly p) d ≠ 0 ↔ ¬ bitPoly d ∣ fieldPoly p := by
    rw [Ne, polyMod_eq_zero_iff (ne_zero_of_mem_smallIrreducibles hd), bitPoly_modulusPoly]
  have hodd (h : ∀ d ∈ smallIrreducibles, ¬ bitPoly d ∣ fieldPoly p) : p.getLsbD 0 = true := by
    have hX : ¬ X ∣ fieldPoly p := bitPoly_two ▸ h 0b10 (by decide)
    rw [X_dvd_iff] at hX
    simpa [fieldPoly] using hX
  rw [irreducible_fieldPoly_iff_no_smallIrreducible, ← forall₂_congr hmod]
  rw [← forall₂_congr hmod] at hodd
  simpa [isIrreducible, List.all_eq_true] using hodd

/-- R85, its last sentence: `x^8 + p` is irreducible exactly where it is no product of two polynomials of degree 1 to 7. -/
theorem irreducible_fieldPoly_iff_no_factors (p : Byte) : Irreducible (fieldPoly p) ↔
    ∀ u v : Byte, 2 ≤ u.toNat → 2 ≤ v.toNat → bitPoly u * bitPoly v ≠ fieldPoly p := by
  have hp := monic_fieldPoly p
  rw [hp.irreducible_iff_natDegree, and_iff_right (fieldPoly_ne_one p)]
  simp only [← one_le_natDegree_bitPoly_iff]
  constructor
  · intro h u v hu hv huv
    have h0 : bitPoly u * bitPoly v ≠ 0 := huv ▸ hp.ne_zero
    have hconst := h _ _ (monic_of_ne_zero (left_ne_zero_of_mul h0)) (monic_of_ne_zero (right_ne_zero_of_mul h0)) huv
    omega
  · intro h f g hf hg hfg
    have hdeg : f.natDegree + g.natDegree = 8 := by rw [← hf.natDegree_mul hg, hfg, natDegree_fieldPoly]
    by_contra! hpos
    obtain ⟨u, rfl⟩ := exists_bitPoly_eq (n := 8) ((natDegree_lt_iff_degree_lt hf.ne_zero).mp (by omega))
    obtain ⟨v, rfl⟩ := exists_bitPoly_eq (n := 8) ((natDegree_lt_iff_degree_lt hg.ne_zero).mp (by omega))
    exact h u v (by omega) (by omega) hfg

/-! The carry-less product of the statements -/

/-- XORing the shifts of `a` chosen by the bits of `b` multiplies the polynomials, where no shift loses a bit. -/
theorem bitPoly_foldl_shifts {n : Nat} {a b : BitVec n}
    (h : ∀ i, b.getLsbD i = true → a.toNat * 2 ^ i < 2 ^ n) (k : Nat) :
    bitPoly ((List.range k).foldl (fun acc i => if b.getLsbD i then acc ^^^ (a <<< i) else acc) 0) =
      bitPoly a * ∑ i ∈ Finset.range k, if b.getLsbD i then X ^ i else 0 := by
  induction k with
  | zero => simp
  | succ k ih =>
    rw [List.range_succ, List.foldl_append, List.foldl_cons, List.foldl_nil, Finset.sum_range_succ, mul_add, ← ih]
    split
    · next hk => rw [bitPoly_xor, bitPoly_shiftLeft (h k hk), mul_comm (X ^ k)]
    · rw [mul_zero, add_zero]

/-- R82: the carry-less product is the product of polynomials, here for factors of degree at most 7 and 8. -/
theorem bitPoly_carryless {a b : BitVec 16} (ha : a.toNat < 2 ^ 8) (hb : b.toNat < 2 ^ 9) :
    bitPoly (carryless a b) = bitPoly a * bitPoly b := by
  refine bitPoly_foldl_shifts (fun i hi => ?_) 16
  have hi9 : i < 9 := (Nat.pow_lt_pow_iff_right one_lt_two).mp ((Nat.ge_two_pow_of_testBit hi).trans_lt hb)
  calc a.toNat * 2 ^ i < 2 ^ 8 * 2 ^ i := by gcongr
    _ ≤ 2 ^ 8 * 2 ^ 8 := by gcongr; exacts [one_le_two, Nat.lt_succ_iff.mp hi9]

theorem bitPoly_carryless_bytes (a b : Byte) :
    bitPoly (carryless (a.setWidth 16) (b.setWidth 16)) = bitPoly a * bitPoly b := by
  have hlt (v : Byte) : (v.setWidth 16).toNat < 2 ^ 8 := by
    rw [BitVec.toNat_setWidth_of_le (by decide)]; exact v.isLt
  rw [bitPoly_carryless (hlt a) ((hlt b).trans (by decide)), bitPoly_setWidth (by decide), bitPoly_setWidth (by decide)]

theorem carryless_eq_iff (u v p : Byte) :
    carryless (u.setWidth 16) (v.setWidth 16) = 0x100 ||| p.setWidth 16 ↔ bitPoly u * bitPoly v = fieldPoly p := by
  rw [← bitPoly_carryless_bytes, ← bitPoly_leading_or (n := 16) (by decide)]
  exact bitPoly_injective.eq_iff.symm

/-! `Mul` and `Inv` in the quotient by `x^8 + m` (R81, R83) -/

/-- The residue class modulo `x^8 + m` a byte denotes. -/
noncomputable def residue (m a : Byte) : AdjoinRoot (fieldPoly m) := AdjoinRoot.mk (fieldPoly m) (bitPoly a)

@[simp] theorem residue_zero (m : Byte) : residue m 0#8 = 0 := by simp [residue]

@[simp] theorem residue_one (m : Byte) : residue m 1#8 = 1 := by
  rw [residue, bitPoly_one, map_one]

@[simp] theorem residue_xor (m a b : Byte) : residue m (a ^^^ b) = residue m a + residue m b := by simp [residue]

/-- No two bytes are congruent: their difference has a smaller degree than `x^8 + m`. -/
theorem residue_injective (m : Byte) : Function.Injective (residue m) := by
  intro a b h
  have hdvd : fieldPoly m ∣ bitPoly a - bitPoly b := AdjoinRoot.mk_eq_mk.mp h
  have hlt : (bitPoly a - bitPoly b).degree < (fieldPoly m).degree := by
    rw [degree_fieldPoly, CharTwo.sub_eq_add, ← bitPoly_xor]
    exact degree_bitPoly_lt (a ^^^ b)
  exact bitPoly_injective (sub_eq_zero.mp (eq_zero_of_dvd_of_degree_lt hdvd hlt))

theorem residue_eq_zero_iff {m a : Byte} : residue m a = 0 ↔ a = 0 :=
  ⟨fun h => residue_injective m (h.trans (residue_zero m).symm), fun h => h ▸ residue_zero m⟩

/-- A byte is `x` times its shift to the right, plus its lowest bit. -/
theorem residue_eq_root_mul_add (m b : Byte) :
    residue m b = AdjoinRoot.root (fieldPoly m) * residue m (b >>> 1) + if b.getLsbD 0 then 1 else 0 := by
  have h := congrArg (AdjoinRoot.mk (fieldPoly m)) (bitPoly_eq_X_mul_add b)
  rw [map_add, map_mul, AdjoinRoot.mk_X] at h
  refine h.trans (congrArg _ ?_)
  split <;> simp

/-- Modulo `x^8 + m`, `x^8` is `m`. -/
theorem mk_X_pow_eight (m : Byte) : AdjoinRoot.mk (fieldPoly m) (X ^ 8) = residue m m := by
  rw [residue, AdjoinRoot.mk_eq_mk, CharTwo.sub_eq_add, ← fieldPoly]

/-- A byte shifted left loses its highest bit. -/
theorem X_mul_bitPoly (a : Byte) : X * bitPoly a = bitPoly (a <<< 1) + if a.msb then X ^ 8 else 0 := by
  ext i
  cases i with
  | zero => split <;> simp [coeff_X_pow]
  | succ i =>
    have hi : a.getLsbD i = true → i < 8 := BitVec.lt_of_getLsbD
    have hmsb : (if a.msb then X ^ 8 else 0 : (ZMod 2)[X]).coeff (i + 1) = if i = 7 ∧ a.getLsbD 7 then 1 else 0 := by
      rw [BitVec.msb_eq_getLsbD_last]
      split <;> simp_all [coeff_X_pow]
    rw [coeff_X_mul, coeff_add, hmsb, coeff_bitPoly, coeff_bitPoly, BitVec.getLsbD_shiftLeft]
    rcases eq_or_ne i 7 with rfl | h7
    · simp
    · have hi' : i + 1 < 8 ↔ i < 8 := by omega
      cases ha : a.getLsbD i <;> simp_all

/-- R81: one doubling multiplies by `x`. -/
theorem residue_xtime (m a : Byte) : residue m (xtime m a) = AdjoinRoot.root (fieldPoly m) * residue m a := by
  have h : AdjoinRoot.root (fieldPoly m) * residue m a =
      residue m (a <<< 1) + AdjoinRoot.mk (fieldPoly m) (if a.msb then X ^ 8 else 0) := by
    rw [← AdjoinRoot.mk_X, residue, ← map_mul, X_mul_bitPoly, map_add, residue]
  rw [h, xtime]
  split
  · rw [residue_xor, mk_X_pow_eight]
  · rw [map_zero, add_zero]

/-- R81: the loop adds the product with the bits of `b` still to come. -/
theorem residue_mulLoop (m : Byte) (k : Nat) (a b acc : Byte) (hb : b.toNat < 2 ^ k) :
    residue m (mulLoop m k a b acc) = residue m acc + residue m a * residue m b := by
  induction k generalizing a b acc with
  | zero =>
    have hb0 : b = 0#8 := BitVec.eq_of_toNat_eq (Nat.lt_one_iff.mp hb)
    simp [mulLoop, hb0]
  | succ k ih =>
    have hb' : (b >>> 1).toNat < 2 ^ k := by
      rw [BitVec.toNat_ushiftRight, Nat.shiftRight_eq_div_pow]; omega
    rw [mulLoop, ih _ _ _ hb', residue_xtime, residue_eq_root_mul_add m b]
    split
    · rw [residue_xor]; ring
    · ring

/-- R82: `Mul` is the product modulo `x^8 + m`, for every modulus byte. -/
@[simp] theorem residue_fieldMul (m a b : Byte) : residue m (fieldMul a b m) = residue m a * residue m b := by
  rw [fieldMul, residue_mulLoop m 8 a b 0 b.isLt]
  simp

/-- R83: the loop multiplies in the power whose exponent is still to come. -/
theorem residue_invLoop (m : Byte) (k : Nat) (r s e : Byte) (he : e.toNat < 2 ^ k) :
    residue m (invLoop m k r s e) = residue m r * residue m s ^ e.toNat := by
  induction k generalizing r s e with
  | zero => simp [invLoop, Nat.lt_one_iff.mp he]
  | succ k ih =>
    have hshift : (e >>> 1).toNat = e.toNat / 2 := by
      rw [BitVec.toNat_ushiftRight, Nat.shiftRight_eq_div_pow, pow_one]
    rw [invLoop, ih _ _ _ (by omega), hshift, residue_fieldMul, ← pow_two, ← pow_mul]
    have hbit : e.getLsbD 0 = true ↔ e.toNat % 2 = 1 := by
      rw [← BitVec.testBit_toNat, Nat.testBit_zero, decide_eq_true_iff]
    split
    · next h =>
      have hexp : 2 * (e.toNat / 2) + 1 = e.toNat := by have := hbit.mp h; omega
      rw [residue_fieldMul, mul_assoc, ← pow_succ', hexp]
    · next h =>
      have hexp : 2 * (e.toNat / 2) = e.toNat := by have := hbit.not.mp h; omega
      rw [hexp]

/-- R83: `Inv` is the 254th power modulo `x^8 + m`, for every modulus byte. -/
@[simp] theorem residue_fieldInv (m a : Byte) : residue m (fieldInv a m) = residue m a ^ 254 := by
  rw [fieldInv, residue_invLoop m 8 1 a 254 (by decide)]
  simp

/-- R83, R84: under an irreducible modulus `Inv` is the inverse of the field of 256 elements (Fermat's little theorem),
with 0 sent to 0. -/
theorem residue_fieldInv_eq_inv {m : Byte} [hm : Fact (Irreducible (fieldPoly m))] (a : Byte) :
    residue m (fieldInv a m) = (residue m a)⁻¹ := by
  have := (AdjoinRoot.powerBasis hm.out.ne_zero).finite
  have := Module.finite_of_finite (ZMod 2) (M := AdjoinRoot (fieldPoly m))
  have := Fintype.ofFinite (AdjoinRoot (fieldPoly m))
  have hcard : Fintype.card (AdjoinRoot (fieldPoly m)) = 2 ^ 8 := by
    rw [← Nat.card_eq_fintype_card, Module.natCard_eq_pow_finrank (K := ZMod 2),
      (AdjoinRoot.powerBasis hm.out.ne_zero).finrank, AdjoinRoot.powerBasis_dim, natDegree_fieldPoly, Nat.card_zmod]
  rw [residue_fieldInv]
  by_cases ha : residue m a = 0
  · simp [ha]
  · refine eq_inv_of_mul_eq_one_right ?_
    have h := FiniteField.pow_card_sub_one_eq_one (residue m a) ha
    rw [hcard] at h
    exact (pow_succ' _ 254).symm.trans h

section Inverse

variable {m : Byte} (hm : isIrreducible m = true)
include hm

theorem fieldMul_fieldInv {a : Byte} (ha : a ≠ 0) : fieldMul a (fieldInv a m) m = 1 := by
  have := Fact.mk ((isIrreducible_iff m).mp hm)
  refine residue_injective m ?_
  rw [residue_fieldMul, residue_fieldInv_eq_inv, mul_inv_cancel₀ (residue_eq_zero_iff.not.mpr ha)]
  exact (residue_one m).symm

theorem fieldInv_fieldInv (a : Byte) : fieldInv (fieldInv a m) m = a := by
  have := Fact.mk ((isIrreducible_iff m).mp hm)
  refine residue_injective m ?_
  rw [residue_fieldInv_eq_inv, residue_fieldInv_eq_inv, inv_inv]

end Inverse

/-- R83: 0 and 1 are their own 254th powers, for every modulus byte. -/
theorem fieldInv_zero (m : Byte) : fieldInv 0 m = 0 := residue_injective m (by simp)

theorem fieldInv_one (m : Byte) : fieldInv 1 m = 1 := residue_injective m (by simp)

/-- R84, R93: a reducible `x^8 + m` makes its proper factors zero divisors, so `Inv` of a factor is no inverse of it. -/
theorem exists_fieldMul_fieldInv_ne_one {m : Byte} (hm : isIrreducible m = false) :
    ∃ a : Byte, a ≠ 0 ∧ fieldMul a (fieldInv a m) m ≠ 1 := by
  have hred : ¬ Irreducible (fieldPoly m) := by
    rw [← isIrreducible_iff, hm]
    decide
  rw [irreducible_fieldPoly_iff_no_factors] at hred
  push Not at hred
  obtain ⟨u, v, hu, hv, huv⟩ := hred
  have hzero : residue m u * residue m v = 0 := by
    rw [residue, residue, ← map_mul, huv, AdjoinRoot.mk_self]
  have ne_zero {w : Byte} (hw : 2 ≤ w.toNat) : w ≠ 0 := by rintro rfl; exact absurd hw (by decide)
  refine ⟨u, ne_zero hu, fun h => ne_zero hv (residue_eq_zero_iff (m := m).mp ?_)⟩
  have hone : residue m u * residue m (fieldInv u m) = 1 := by
    rw [← residue_fieldMul, h]
    exact residue_one m
  calc residue m v = residue m u * residue m v * residue m (fieldInv u m) := by
        rw [mul_right_comm, hone, one_mul]
    _ = 0 := by rw [hzero, zero_mul]

/-! The commands (R88, R90, R91): each answers its function's value and changes nothing else. -/

theorem exec_gfadd (a b : Byte) (s : State) : exec (.gfadd a b) s = .next { s with err := 0x00, res := fieldAdd a b } := rfl

theorem exec_gfinv (a m : Byte) (s : State) : exec (.gfinv a m) s = .next { s with err := 0x00, res := fieldInv a m } := rfl

theorem exec_gfirr (p : Byte) (s : State) :
    exec (.gfirr p) s = .next { s with err := 0x00, res := if isIrreducible p then 0x01 else 0x00 } := rfl

end Sys2Proof.Machine

namespace Sys2Proof.Proofs

open Sys2Proof.Machine

/-- Settles O11: `Inv` is the 254th power modulo `x^8 + m`, which is the inverse of the field of 256 elements where
`x^8 + m` is irreducible; a proper factor of a reducible `x^8 + m` is a zero divisor and has no inverse. -/
theorem gfinvAnswersInverse : Obligations.GfinvAnswersInverse := by
  unfold Obligations.GfinvAnswersInverse
  intro m
  refine ⟨fun s => ?zero, fun hm a => ?irreducible, fun hm => ?reducible⟩
  case zero => rw [exec_gfinv, fieldInv_zero]
  case irreducible =>
    refine ⟨fieldInv a m, exec_gfinv a m, fun s => ?_, fieldMul_fieldInv hm, ?_⟩
    · rw [exec_gfinv, fieldInv_fieldInv hm]
    · rintro rfl
      exact fieldInv_one m
  case reducible =>
    obtain ⟨a, ha, hne⟩ := exists_fieldMul_fieldInv_ne_one hm
    exact ⟨a, fieldInv a m, ha, exec_gfinv a m, hne⟩

/-- Settles O12: trial division by the eight polynomials of R86 decides irreducibility of `x^8 + p`. -/
theorem gfirrDecidesIrreducibility : Obligations.GfirrDecidesIrreducibility := by
  unfold Obligations.GfirrDecidesIrreducibility
  intro p s
  simp only [ne_eq, carryless_eq_iff, ← irreducible_fieldPoly_iff_no_factors, ← isIrreducible_iff]
  refine ⟨_, exec_gfirr p s, ?_⟩
  cases isIrreducible p <;> decide

/-- Settles O8: `Add` is the XOR of bytes, whose laws hold at every width. -/
theorem gfaddAnswersXor : Obligations.GfaddAnswersXor := by
  unfold Obligations.GfaddAnswersXor
  refine ⟨exec_gfadd, fun a b c => ?_⟩
  refine ⟨rfl, BitVec.xor_comm a b, BitVec.xor_assoc a b c, ?_, BitVec.xor_zero, BitVec.xor_self⟩
  rw [fieldAdd, fieldAdd, ← BitVec.xor_assoc, BitVec.xor_self, BitVec.zero_xor]

end Sys2Proof.Proofs

/-! PROOFS. Configuration and substitution box (`41_sbox.md` rules R100 to R108). `Affine` bit by bit and its inverse, the
forward table and its inverse table entry by entry, and what `CFG`, `SBGEN`, `SBFWD`, `SBINV` do case by case; the four
statements follow. -/

namespace Sys2Proof.Machine

/-! `Affine` (R100) -/

theorem rotl8_eq_rotateLeft {n : Nat} (hn : n < 8) (x : Byte) : rotl8 x n = x.rotateLeft n := by
  rw [rotl8, BitVec.rotateLeft, BitVec.rotateLeftAux, Nat.mod_eq_of_lt hn]

/-- R9: bit `i` of `rotl8(x, n)` is bit `i - n` modulo 8 of `x`. -/
theorem getLsbD_rotl8 {n i : Nat} (hn : n < 8) (hi : i < 8) (x : Byte) :
    (rotl8 x n).getLsbD i = x.getLsbD ((i + (8 - n)) % 8) := by
  rw [rotl8_eq_rotateLeft hn, BitVec.getLsbD_rotateLeft, Nat.mod_eq_of_lt hn]
  by_cases hin : i < n
  · have hlt : i + (8 - n) < 8 := by omega
    simp [hin, Nat.mod_eq_of_lt hlt, Nat.add_comm]
  · have hwrap : (i + (8 - n)) % 8 = i - n := by omega
    simp [hin, hi, hwrap]

theorem getLsbD_affine {i : Nat} (hi : i < 8) (x : Byte) : (affine x).getLsbD i = affineBit x i := by
  simp only [affine, affineBit, BitVec.getLsbD_xor, getLsbD_rotl8 _ hi, Nat.reduceLT, Nat.reduceSub]

/-- The inverse of `Affine`: modulo `r^8 + 1` the sum `r + r^3 + r^6` is the inverse of `1 + r + r^2 + r^3 + r^4`, and
`0x05` takes the constant back. -/
def affineInverse (y : Byte) : Byte := rotl8 y 1 ^^^ rotl8 y 3 ^^^ rotl8 y 6 ^^^ 0x05

theorem affineInverse_affine : Function.LeftInverse affineInverse affine := by
  unfold Function.LeftInverse; decide

theorem affine_affineInverse : Function.RightInverse affineInverse affine := by
  unfold Function.RightInverse Function.LeftInverse; decide

theorem affine_bijective : Function.Bijective affine :=
  ⟨affineInverse_affine.injective, affine_affineInverse.surjective⟩

/-! The tables (R102, R103) -/

theorem lookup_forwardTable (m b : Byte) : lookup (forwardTable m) b = affine (fieldInv b m) := by
  simp [lookup, forwardTable]

/-- R102: under an irreducible modulus the forward table is a permutation, since `Inv` and `Affine` are. -/
theorem lookup_forwardTable_bijective {m : Byte} (hm : isIrreducible m = true) :
    Function.Bijective (lookup (forwardTable m)) := by
  have hinv : Function.Involutive fun b => fieldInv b m := fieldInv_fieldInv hm
  rw [funext (lookup_forwardTable m)]
  exact affine_bijective.comp hinv.bijective

theorem lookup_setIfInBounds (t : SBox) (x y v : Byte) :
    lookup (t.setIfInBounds y.toNat v) x = if y = x then v else lookup t x := by
  simp [lookup, Vector.getElem_setIfInBounds, BitVec.toNat_inj]

/-- `InverseTable(f)` after its entries for the bytes below `k` (R103). -/
def inverseTableUpTo (f : SBox) (k : Nat) : SBox :=
  (List.range k).foldl (fun t b => t.setIfInBounds (lookup f (BitVec.ofNat 8 b)).toNat (BitVec.ofNat 8 b)) (zeroBytes 256)

theorem inverseTable_eq_upTo (f : SBox) : inverseTable f = inverseTableUpTo f 256 := rfl

theorem inverseTableUpTo_succ (f : SBox) (k : Nat) : inverseTableUpTo f (k + 1) =
    (inverseTableUpTo f k).setIfInBounds (lookup f (BitVec.ofNat 8 k)).toNat (BitVec.ofNat 8 k) := by
  simp [inverseTableUpTo, List.range_succ]

/-- No later entry overwrites the one of a byte, since the table has no entry twice. -/
theorem lookup_inverseTableUpTo {f : SBox} (hf : Function.Injective (lookup f)) (b : Byte) {k : Nat} (hb : b.toNat < k) :
    lookup (inverseTableUpTo f k) (lookup f b) = b := by
  induction k with
  | zero => omega
  | succ k ih =>
    rw [inverseTableUpTo_succ, lookup_setIfInBounds]
    split
    · next h => exact hf h
    · next h =>
      have hne : b.toNat ≠ k := by
        rintro rfl
        exact h (by rw [BitVec.ofNat_toNat, BitVec.setWidth_eq])
      exact ih (by omega)

theorem lookup_inverseTable_lookup {f : SBox} (hf : Function.Injective (lookup f)) (b : Byte) :
    lookup (inverseTable f) (lookup f b) = b := by
  rw [inverseTable_eq_upTo]
  exact lookup_inverseTableUpTo hf b b.isLt

theorem lookup_lookup_inverseTable {f : SBox} (hf : Function.Bijective (lookup f)) (b : Byte) :
    lookup f (lookup (inverseTable f) b) = b := by
  obtain ⟨a, rfl⟩ := hf.surjective b
  rw [lookup_inverseTable_lookup hf.injective]

/-! The checks and the lazy build, case by case (R104 to R108) -/

section Build

variable {s : State}

theorem State.withSbox_of_not_configured (hc : s.cfgValid = false) : s.withSbox = .error .ordNocfg := by
  simp [State.withSbox, hc]

theorem State.withSbox_of_configured (hc : s.cfgValid = true) : s.withSbox = s.ensureSbox := by
  simp [State.withSbox, hc]

theorem State.ensureSbox_of_built (hv : s.sbValid = true) : s.ensureSbox = .ok s := by
  simp [State.ensureSbox, hv]

theorem State.ensureSbox_of_reducible (hv : s.sbValid = false) (hm : isIrreducible s.modulus = false) :
    s.ensureSbox = .error .cfgModulus := by
  simp [State.ensureSbox, hv, hm]

theorem State.ensureSbox_of_irreducible (hv : s.sbValid = false) (hm : isIrreducible s.modulus = true) :
    s.ensureSbox =
      .ok { s with sbf := forwardTable s.modulus, sbi := inverseTable (forwardTable s.modulus), sbValid := true } := by
  simp [State.ensureSbox, hv, hm]

theorem State.ensureSbox_isOk (h : s.sbValid = true ∨ isIrreducible s.modulus = true) : ∃ t, s.ensureSbox = .ok t := by
  cases hv : s.sbValid with
  | true => exact ⟨s, State.ensureSbox_of_built hv⟩
  | false => exact ⟨_, State.ensureSbox_of_irreducible hv (h.resolve_left (by simp [hv]))⟩

end Build

/-! The commands (R101, R106 to R108) -/

section Commands

variable {s t : State} {e : ErrorName}

theorem exec_sbgen_of_ok (h : s.withSbox = .ok t) : exec .sbgen s = .next (t.answer 0x00) := by
  simp [exec, execSbgen, h]

theorem exec_sbfwd_of_ok (h : s.withSbox = .ok t) (x : Byte) : exec (.sbfwd x) s = .next (t.answer (lookup t.sbf x)) := by
  simp [exec, execSbfwd, h]

theorem exec_sbinv_of_ok (h : s.withSbox = .ok t) (x : Byte) : exec (.sbinv x) s = .next (t.answer (lookup t.sbi x)) := by
  simp [exec, execSbinv, h]

theorem raises_sbgen_of_error (h : s.withSbox = .error e) : Raises .sbgen s e.code := by
  rw [raises_iff]; simp [exec, execSbgen, h]

theorem raises_sbfwd_of_error (h : s.withSbox = .error e) (x : Byte) : Raises (.sbfwd x) s e.code := by
  rw [raises_iff]; simp [exec, execSbfwd, h]

theorem raises_sbinv_of_error (h : s.withSbox = .error e) (x : Byte) : Raises (.sbinv x) s e.code := by
  rw [raises_iff]; simp [exec, execSbinv, h]

theorem exec_cfg_of_some {nk nb : Byte} {k b : WordCount} (hk : wordCount nk = some k) (hb : wordCount nb = some b)
    (m : Byte) : exec (.cfg nk nb m) s = .next ((s.configure k b m).answer (rounds k b).byte) := by
  simp [exec, execCfg, hk, hb]

theorem raises_cfg_of_none {nk nb : Byte} (h : wordCount nk = none ∨ wordCount nb = none) (m : Byte) :
    Raises (.cfg nk nb m) s ErrorName.cfgParam.code := by
  rw [raises_iff]
  rcases h with h | h
  · simp [exec, execCfg, h]
  · cases hk : wordCount nk <;> simp [exec, execCfg, h, hk]

end Commands

theorem rounds_toNat (k b : WordCount) : (rounds k b).toNat =
    if k.toNat ≤ 4 ∧ b.toNat ≤ 4 then 10 else if k.toNat ≤ 6 ∧ b.toNat ≤ 6 then 12 else 14 := by
  unfold rounds
  split_ifs <;> rfl

/-- R121: the table gives the larger word count plus 6. -/
theorem rounds_toNat_eq_max_add (k b : WordCount) : (rounds k b).toNat = max k.toNat b.toNat + 6 := by
  cases k <;> cases b <;> rfl

end Sys2Proof.Machine

namespace Sys2Proof.Proofs

open Sys2Proof.Machine

/-- Settles O15: the forward table is a permutation because `Inv` and `Affine` are, so each entry of the inverse table is
written once. -/
theorem sbgenBuildsTheTables : Obligations.SbgenBuildsTheTables := by
  unfold Obligations.SbgenBuildsTheTables
  intro s
  refine ⟨fun hc => ?unconfigured, fun hc hv hm => ?reducible, fun hc hv => ?built, fun hc hv hm => ?build⟩
  case unconfigured => exact raises_sbgen_of_error (State.withSbox_of_not_configured hc)
  case reducible =>
    exact raises_sbgen_of_error ((State.withSbox_of_configured hc).trans (State.ensureSbox_of_reducible hv hm))
  case built => exact exec_sbgen_of_ok ((State.withSbox_of_configured hc).trans (State.ensureSbox_of_built hv))
  case build =>
    have hf := lookup_forwardTable_bijective hm
    have h := (State.withSbox_of_configured hc).trans (State.ensureSbox_of_irreducible hv hm)
    refine ⟨forwardTable s.modulus, inverseTable (forwardTable s.modulus), ?_, fun b => ?_,
      lookup_inverseTable_lookup hf.injective, lookup_lookup_inverseTable hf⟩
    · rw [exec_sbgen_of_ok h, State.answer]
    · refine ⟨fieldInv b s.modulus, exec_gfinv b s.modulus s, fun i hi => ?_⟩
      rw [lookup_forwardTable, getLsbD_affine hi]

/-- Settles O16: the three commands begin with the same checks and the same build. -/
theorem sboxLookupsAnswerEntries : Obligations.SboxLookupsAnswerEntries := by
  unfold Obligations.SboxLookupsAnswerEntries
  intro s x
  refine ⟨fun hc => ?unconfigured, fun hc hv hm => ?reducible, fun hc hb => ?answer⟩
  case unconfigured =>
    have h := State.withSbox_of_not_configured hc
    exact ⟨raises_sbfwd_of_error h x, raises_sbinv_of_error h x⟩
  case reducible =>
    have h := (State.withSbox_of_configured hc).trans (State.ensureSbox_of_reducible hv hm)
    exact ⟨raises_sbfwd_of_error h x, raises_sbinv_of_error h x⟩
  case answer =>
    obtain ⟨t, ht⟩ := State.ensureSbox_isOk hb
    have h := (State.withSbox_of_configured hc).trans ht
    exact ⟨t.answer 0x00, exec_sbgen_of_ok h, rfl, exec_sbfwd_of_ok h x, exec_sbinv_of_ok h x⟩

/-- Settles O14: an operand is a word count exactly where it is 4, 6 or 8, and `Rounds` is the table of R121. -/
theorem cfgBeginsAnInstance : Obligations.CfgBeginsAnInstance := by
  unfold Obligations.CfgBeginsAnInstance
  refine ⟨fun k b m s => ?_, fun nk nb m s h => ?_⟩
  · exact ⟨rounds k b, rounds_toNat k b, rounds_toNat_eq_max_add k b,
      exec_cfg_of_some (wordCount_byte k) (wordCount_byte b) m⟩
  · rw [← wordCount_eq_none, ← wordCount_eq_none] at h
    exact raises_cfg_of_none h m

/-- Settles O53: each rotation by its bits, and the inverse of `Affine` as another sum of rotations. -/
theorem affineIsTheXorOfRotations : Obligations.AffineIsTheXorOfRotations := by
  unfold Obligations.AffineIsTheXorOfRotations
  exact ⟨fun x i hi => getLsbD_affine hi x, affine_bijective, by decide⟩

end Sys2Proof.Proofs

/-! PROOFS. Key expansion (`42_key_expansion.md` rules R122 to R126). The word of the schedule and its `temp` case by case,
the schedule `KEXP` writes word by word, and what `KEXP` and `RCON` do case by case; the statement follows. -/

namespace Sys2Proof.Machine

/-! The words of `KeyExpand` (R123, R124) -/

section Words

variable {n nk i : Nat} {f : SBox} {m : Byte}

theorem scheduleWord_of_lt (h : i < nk) (key : Bytes n) (w : Schedule) : scheduleWord nk key f m w i =
    #v[byteAt key (4 * i), byteAt key (4 * i + 1), byteAt key (4 * i + 2), byteAt key (4 * i + 3)] := by
  simp [scheduleWord, h]

theorem scheduleWord_of_ge (h : nk ≤ i) (key : Bytes n) (w : Schedule) : scheduleWord nk key f m w i =
    xorBytes (wordAt w (i - nk)) (scheduleTemp nk f m i (wordAt w (i - 1))) := by
  simp [scheduleWord, Nat.not_lt.mpr h]

theorem scheduleTemp_of_mod_eq_zero (h : i % nk = 0) (p : KeyWord) : scheduleTemp nk f m i p =
    #v[lookup f p[1] ^^^ rcon m (i / nk), lookup f p[2], lookup f p[3], lookup f p[0]] := by
  simp [scheduleTemp, h, subWord, rotWord]

theorem scheduleTemp_of_mod_eq_four (hnk : 6 < nk) (h : i % nk = 4) (p : KeyWord) : scheduleTemp nk f m i p =
    #v[lookup f p[0], lookup f p[1], lookup f p[2], lookup f p[3]] := by
  simp [scheduleTemp, hnk, h, subWord]

theorem scheduleTemp_of_plain (h0 : i % nk ≠ 0) (h4 : ¬(6 < nk ∧ i % nk = 4)) (p : KeyWord) :
    scheduleTemp nk f m i p = p := by
  simp only [scheduleTemp, gt_iff_lt, if_neg h0, if_neg h4]

end Words

/-! The schedule `KEXP` writes (R122, R125) -/

/-- R19, R122: a schedule of any block size and round count fits in the store. -/
theorem scheduleWords_le_store (nb : WordCount) (nr : RoundCount) : scheduleWords nb nr ≤ 120 := by
  cases nb <;> cases nr <;> decide

/-- R122: the key never reaches beyond the schedule. -/
theorem WordCount.toNat_le_scheduleWords (nk nb : WordCount) (nr : RoundCount) : nk.toNat ≤ scheduleWords nb nr :=
  calc nk.toNat ≤ 8 := nk.toNat_bounds.2
    _ ≤ scheduleWords nb nr := by cases nb <;> cases nr <;> decide

section Schedule

variable {u : State} {i : Nat}

theorem State.wordAt_expandKey (h : i < scheduleWords u.nb u.nr) : wordAt u.expandKey i =
    scheduleWord u.nk.toNat (u.bytes .keybuf (keyBytes u.nk)) u.sbf (roundModulus u.modulus) u.expandKey i := by
  have hnk : 1 ≤ u.nk.toNat := Nat.one_le_of_lt u.nk.toNat_bounds.1
  exact (keyExpand_spec _ _ _ _ _ _ hnk (scheduleWords_le_store u.nb u.nr)).1 i h

/-- R123: the first `NK` words are the key verbatim. -/
theorem State.wordAt_expandKey_of_lt (h : i < u.nk.toNat) : wordAt u.expandKey i =
    #v[u.byte .keybuf (4 * i), u.byte .keybuf (4 * i + 1), u.byte .keybuf (4 * i + 2), u.byte .keybuf (4 * i + 3)] := by
  have hbyte (k : Nat) (hk : k < 4) :
      byteAt (u.bytes .keybuf (keyBytes u.nk)) (4 * i + k) = u.byte .keybuf (4 * i + k) := by
    have hlt : 4 * i + k < keyBytes u.nk := by unfold keyBytes; omega
    rw [byteAt_lt _ _ hlt, State.bytes_getElem]
  rw [State.wordAt_expandKey (h.trans_le (u.nk.toNat_le_scheduleWords u.nb u.nr)), scheduleWord_of_lt h, hbyte 1 (by decide),
    hbyte 2 (by decide), hbyte 3 (by decide)]
  exact congrArg (#v[·, _, _, _]) (hbyte 0 (by decide))

/-- R123: each further word is the word `NK` before it XOR `temp`. -/
theorem State.wordAt_expandKey_of_ge (h : u.nk.toNat ≤ i) (hi : i < scheduleWords u.nb u.nr) : wordAt u.expandKey i =
    xorBytes (wordAt u.expandKey (i - u.nk.toNat))
      (scheduleTemp u.nk.toNat u.sbf (roundModulus u.modulus) i (wordAt u.expandKey (i - 1))) := by
  rw [State.wordAt_expandKey hi, scheduleWord_of_ge h]

end Schedule

/-! The commands (R125, R126) -/

section Commands

variable {s u : State} {len : Byte}

/-- R105: the lazy build writes the tables and their flag alone. -/
theorem State.ensureSbox_isOk_tables (h : s.sbValid = true ∨ isIrreducible s.modulus = true) :
    ∃ f g, s.ensureSbox = .ok { s with sbf := f, sbi := g, sbValid := true } := by
  obtain ⟨t, ht⟩ := State.ensureSbox_isOk h
  rcases State.ensureSbox_ok ht with ⟨hv, rfl⟩ | ⟨-, -, rfl⟩
  · exact ⟨t.sbf, t.sbi, by rw [ht, ← hv]⟩
  · exact ⟨_, _, ht⟩

theorem RoundCount.byte_add_one (c : RoundCount) : c.byte + 1 = BitVec.ofNat 8 (c.toNat + 1) := by cases c <;> rfl

theorem raises_kexp_of_not_configured (hc : s.cfgValid = false) : Raises (.kexp len) s ErrorName.ordNocfg.code := by
  rw [raises_iff]; simp [exec, execKexp, hc]

theorem raises_kexp_of_wrong_length (hc : s.cfgValid = true) (hl : len.toNat ≠ keyBytes s.nk) :
    Raises (.kexp len) s ErrorName.cfgKeysize.code := by
  rw [raises_iff]; simp [exec, execKexp, hc, hl]

theorem raises_kexp_of_error {e : ErrorName} (hc : s.cfgValid = true) (hl : len.toNat = keyBytes s.nk)
    (h : s.ensureSbox = .error e) : Raises (.kexp len) s e.code := by
  rw [raises_iff]; simp [exec, execKexp, hc, hl, h]

theorem exec_kexp_of_ok (hc : s.cfgValid = true) (hl : len.toNat = keyBytes s.nk) (h : s.ensureSbox = .ok u) :
    exec (.kexp len) s =
      .next (State.answer (u.nr.byte + 1) { u with w := u.expandKey, ksValid := true, run := false }) := by
  simp [exec, execKexp, hc, hl, h]

theorem exec_rcon_of_ne_zero {j : Byte} (hj : j ≠ 0) (s : State) :
    exec (.rcon j) s = .next { s with err := 0x00, res := rcon canonicalModulus j.toNat } := by
  rw [exec, execRcon, if_neg hj, State.answer]

/-- R120, R128: the scheduler's round constant at a word that starts a key length is what `RCON` answers. -/
theorem exec_rcon_of_word {nk : WordCount} {i : Nat} (h : nk.toNat ≤ i) (hi : i < 120) (m : Byte) (s : State) :
    exec (.rcon (BitVec.ofNat 8 (i / nk.toNat))) s =
      .next { s with err := 0x00, res := rcon (roundModulus m) (i / nk.toNat) } := by
  have hpos : 0 < i / nk.toNat := Nat.div_pos h (Nat.lt_of_lt_of_le (by decide) nk.toNat_bounds.1)
  have hlt : i / nk.toNat < 2 ^ 8 := (Nat.div_le_self _ _).trans_lt (hi.trans (by decide))
  have hval : (BitVec.ofNat 8 (i / nk.toNat)).toNat = i / nk.toNat := by rw [BitVec.toNat_ofNat, Nat.mod_eq_of_lt hlt]
  have hne : BitVec.ofNat 8 (i / nk.toNat) ≠ 0 := fun h0 => by
    rw [h0] at hval
    exact hpos.ne hval
  rw [exec_rcon_of_ne_zero hne, hval]
  rfl

end Commands

end Sys2Proof.Machine

namespace Sys2Proof.Proofs

open Sys2Proof.Machine

/-- Settles O18: `KEXP` begins with the build of `SBGEN`, and each word it writes satisfies the recurrence of R123 in the
finished schedule, since no later word overwrites an earlier one. -/
theorem kexpExpandsTheKey : Obligations.KexpExpandsTheKey := by
  unfold Obligations.KexpExpandsTheKey
  intro len s
  refine ⟨raises_kexp_of_not_configured, raises_kexp_of_wrong_length, fun hc hl hv hm => ?reducible,
    fun hc hl hb => ?expand⟩
  case reducible => exact raises_kexp_of_error hc hl (State.ensureSbox_of_reducible hv hm)
  case expand =>
    obtain ⟨f, g, hu⟩ := State.ensureSbox_isOk_tables hb
    refine ⟨_, _, exec_sbgen_of_ok ((State.withSbox_of_configured hc).trans hu), rfl,
      exec_kexp_of_ok hc hl hu, ?frame, fun i hi => ?key, fun i hi hlen => ?word⟩
    case frame => rw [RoundCount.byte_add_one]; rfl
    case key => exact State.wordAt_expandKey_of_lt hi
    case word =>
      refine ⟨_, scheduleTemp s.nk.toNat f (roundModulus s.modulus) i (wordAt (State.expandKey _) (i - 1)), rfl,
        fun k hk => ?xor, fun h0 => ?first, fun h6 h4 => ?middle, fun h0 h4 => scheduleTemp_of_plain h0 h4 _⟩
      case xor =>
        rw [← xorBytes_getElem _ _ _ hk]
        exact congrArg (·[k]) (State.wordAt_expandKey_of_ge hi hlen)
      case first =>
        refine ⟨_, exec_rcon_of_word hi (hlen.trans_le (scheduleWords_le_store _ _)) s.modulus s, ?_⟩
        rw [scheduleTemp_of_mod_eq_zero h0]
        exact ⟨rfl, rfl, rfl, rfl⟩
      case middle =>
        rw [scheduleTemp_of_mod_eq_four h6 h4]
        exact ⟨rfl, rfl, rfl, rfl⟩

end Sys2Proof.Proofs

/-! PROOFS. Block core (`43_block_core.md` rules R152, R153). `DOUT` and the rest of the buffer space after a block is
written to `DOUT`, then the checks and the answer of `ENCB` and `DECB` case by case; the statements follow. -/

namespace Sys2Proof.Machine

/-! `DOUT` after a block is written to it (R21) -/

section Dout

variable {n k : Nat}

theorem State.byte_setDout_of_lt (s : State) (y : Bytes n) (hn : n ≤ bufferSize) (hk : k < n) :
    (s.setDout y).byte .dout k = y[k] := by
  rw [State.byte_setDout s y hn .dout k (hk.trans_le hn), if_pos rfl, if_pos hk, byteAt_lt y k hk]

theorem State.byte_setDout_of_ge (s : State) (y : Bytes n) (hn : n ≤ bufferSize) (hk : n ≤ k) (hk' : k < bufferSize) :
    (s.setDout y).byte .dout k = 0x00 := by
  rw [State.byte_setDout s y hn .dout k hk', if_pos rfl, if_neg (Nat.not_lt.mpr hk)]

/-- R21, R41: the 32 bytes from the first address of `DOUT` on are the only ones written. -/
theorem State.read_setDout_of_outside (s : State) (y : Bytes n) (hn : n ≤ bufferSize) {a : Nat}
    (ha : ¬(Buffer.dout.addr 0 ≤ a ∧ a < Buffer.dout.addr 0 + 32)) : (s.setDout y).mem.read a = s.mem.read a := by
  have hdout : Buffer.dout.addr 0 = 96 := rfl
  exact State.read_setDout_other s y hn a (by omega)

/-- R21: `DOUT[0..n-1] <- y ; DOUT[n..31] <- 0^(32-n)`, and no other byte of the buffer space changes. -/
theorem State.setDout_spec (s : State) (y : Bytes n) (hn : n ≤ bufferSize) :
    (∀ k (hk : k < n), (s.setDout y).byte .dout k = y[k]) ∧
    (∀ k, n ≤ k → k < bufferSize → (s.setDout y).byte .dout k = 0x00) ∧
    ∀ a, ¬(Buffer.dout.addr 0 ≤ a ∧ a < Buffer.dout.addr 0 + 32) → (s.setDout y).mem.read a = s.mem.read a :=
  ⟨fun _ hk => s.byte_setDout_of_lt y hn hk, fun _ hk hk' => s.byte_setDout_of_ge y hn hk hk',
    fun _ ha => s.read_setDout_of_outside y hn ha⟩

end Dout

/-! The commands (R152, R153) -/

section BlockCommands

variable {s : State} {len : Byte}

theorem State.blockCheck_of_not_configured (hc : s.cfgValid = false) : s.blockCheck len = some .ordNocfg := by
  simp [State.blockCheck, hc]

theorem State.blockCheck_of_no_key (hc : s.cfgValid = true) (hk : s.ksValid = false) :
    s.blockCheck len = some .ordNokey := by
  simp [State.blockCheck, hc, hk]

theorem State.blockCheck_of_wrong_length (hc : s.cfgValid = true) (hk : s.ksValid = true)
    (hl : len.toNat ≠ blockBytes s.nb) : s.blockCheck len = some .cfgBlocksize := by
  simp [State.blockCheck, hc, hk, hl]

theorem raises_encb_of_blockCheck {e : ErrorName} (h : s.blockCheck len = some e) : Raises (.encb len) s e.code := by
  rw [raises_iff]; simp [exec, execEncb, h]

theorem raises_decb_of_blockCheck {e : ErrorName} (h : s.blockCheck len = some e) : Raises (.decb len) s e.code := by
  rw [raises_iff]; simp [exec, execDecb, h]

theorem exec_encb_of_blockCheck (h : s.blockCheck len = none) :
    exec (.encb len) s = .next ((s.setDout (s.encrypt s.inputBlock)).answer 0x00) := by
  simp [exec, execEncb, h]

theorem exec_decb_of_blockCheck (h : s.blockCheck len = none) :
    exec (.decb len) s = .next ((s.setDout (s.decrypt s.inputBlock)).answer 0x00) := by
  simp [exec, execDecb, h]

end BlockCommands

end Sys2Proof.Machine

namespace Sys2Proof.Proofs

open Sys2Proof.Machine

/-- Settles O20: past the checks, `ENCB` is one write of `DOUT` by the cipher block, and a block fits in `DOUT`. -/
theorem encbEncryptsTheBlock : Obligations.EncbEncryptsTheBlock := by
  unfold Obligations.EncbEncryptsTheBlock
  intro len s
  refine ⟨fun hc => ?unconfigured, fun hc hk => ?keyless, fun hc hk hl => ?length, fun hc hk hl => ?encrypt⟩
  case unconfigured => exact raises_encb_of_blockCheck (State.blockCheck_of_not_configured hc)
  case keyless => exact raises_encb_of_blockCheck (State.blockCheck_of_no_key hc hk)
  case length => exact raises_encb_of_blockCheck (State.blockCheck_of_wrong_length hc hk hl)
  case encrypt =>
    have hfit : blockBytes s.nb ≤ bufferSize := (blockBytes_bounds s.nb).2
    exact ⟨_, exec_encb_of_blockCheck (State.blockCheck_none.mpr ⟨hc, hk, hl⟩), rfl, s.setDout_spec _ hfit⟩

/-- Settles O21: past the checks, which are those of `ENCB`, `DECB` is one write of `DOUT` by the decrypted block. -/
theorem decbDecryptsTheBlock : Obligations.DecbDecryptsTheBlock := by
  unfold Obligations.DecbDecryptsTheBlock
  intro len s
  refine ⟨fun hc => ?unconfigured, fun hc hk => ?keyless, fun hc hk hl => ?length, fun hc hk hl => ?decrypt⟩
  case unconfigured => exact raises_decb_of_blockCheck (State.blockCheck_of_not_configured hc)
  case keyless => exact raises_decb_of_blockCheck (State.blockCheck_of_no_key hc hk)
  case length => exact raises_decb_of_blockCheck (State.blockCheck_of_wrong_length hc hk hl)
  case decrypt =>
    have hfit : blockBytes s.nb ≤ bufferSize := (blockBytes_bounds s.nb).2
    exact ⟨_, exec_decb_of_blockCheck (State.blockCheck_none.mpr ⟨hc, hk, hl⟩), rfl, s.setDout_spec _ hfit⟩

end Sys2Proof.Proofs

/-! PROOFS. Modes and padding (`44_modes_padding.md` rules R170 to R204). The selectors by the modes and paddings they stand
for, what `InitFeedback`, `ModeStep`, `PadBytes` and `PadLength` give, then the checks and the answer of each command case
by case; the statements follow. -/

namespace Sys2Proof.Machine

/-! Selectors (R170, R171, R184) -/

section Selectors

variable {b : Byte} {mode : Mode} {p : Padding}

theorem modeOf_eq_some_iff : modeOf b = some mode ↔ b = mode.selector := by
  refine ⟨?_, fun h => h ▸ modeOf_selector mode⟩
  revert b
  cases mode <;> decide

theorem paddingOf_eq_some_iff : paddingOf b = some p ↔ b = p.selector := by
  refine ⟨?_, fun h => h ▸ paddingOf_selector p⟩
  revert b
  cases p <;> decide

theorem exists_modeOf (h : b.toNat ≤ 6) : ∃ mode, modeOf b = some mode :=
  Option.ne_none_iff_exists'.mp fun hn => Nat.not_lt.mpr h ((modeOf_eq_none b).mp hn)

theorem exists_paddingOf (h : b.toNat ≤ 3) : ∃ p, paddingOf b = some p :=
  Option.ne_none_iff_exists'.mp fun hn => Nat.not_lt.mpr h ((paddingOf_eq_none b).mp hn)

/-- R171: the stream-style modes are those from CFB on. -/
theorem streamStyle_of_modeOf (h : modeOf b = some mode) : mode.streamStyle = decide (3 ≤ b.toNat) := by
  rw [modeOf_eq_some_iff.mp h]
  cases mode <;> rfl

/-- R184: the modes with a keystream are CFB, OFB and CTR. -/
theorem hasKeystream_of_modeOf (h : modeOf b = some mode) : mode.hasKeystream = decide (b.toNat ∈ [3, 4, 5]) := by
  rw [modeOf_eq_some_iff.mp h]
  cases mode <;> rfl

theorem keystreamMode_eq_none (h : b.toNat ∉ [3, 4, 5]) : (modeOf b).filter Mode.hasKeystream = none := by
  simp only [Option.filter_eq_none_iff]
  intro mode hm
  rw [hasKeystream_of_modeOf hm, decide_eq_false h]
  exact Bool.false_ne_true

theorem exists_keystreamMode (h : b.toNat ∈ [3, 4, 5]) :
    ∃ mode, modeOf b = some mode ∧ (modeOf b).filter Mode.hasKeystream = some mode := by
  have h6 : b.toNat ≤ 6 := by simp at h; omega
  obtain ⟨mode, hm⟩ := exists_modeOf h6
  exact ⟨mode, hm, Option.filter_eq_some_iff.mpr ⟨hm, by rw [hasKeystream_of_modeOf hm, decide_eq_true h]⟩⟩

end Selectors

/-! `InitFeedback`, `ModeStep` and the keystream block, by mode (R174 to R184) -/

section Feedback

variable {mode : Mode}

/-- R174: every mode but ECB and PCBC starts from the IV in `FB0`. -/
theorem State.initFeedback_of_iv (s : State) (h0 : mode ≠ .ecb) (h2 : mode ≠ .pcbc) :
    s.initFeedback mode = { s with fb0 := fillRegister (s.bytes .ivbuf (blockBytes s.nb)) } := by
  cases mode
  case ecb => exact absurd rfl h0
  case pcbc => exact absurd rfl h2
  all_goals rfl

theorem fillRegister_bytes_getElem (s : State) (b : Buffer) (n : Nat) {k : Nat} (hk : k < 32) :
    (fillRegister (s.bytes b n))[k] = if k < n then s.byte b k else 0x00 := by
  rw [fillRegister_getElem]
  exact ite_congr rfl (fun h => by rw [byteAt_lt _ _ h, State.bytes_getElem]) fun _ => rfl

theorem fillRegister_zeroBytes_getElem (n : Nat) {k : Nat} (hk : k < 32) : (fillRegister (zeroBytes n))[k] = 0x00 := by
  rw [fillRegister_getElem, ite_eq_right_iff]
  intro h
  simp [zeroBytes, h]

/-- R176 to R182: `ModeStep` obeys the rule of its mode, in both directions. -/
theorem modeStep_rule {n : Nat} (mode : Mode) (dec : Bool) (e d : Bytes n → Bytes n) (i : BitVec 64) (x : Bytes n)
    (fb : Feedback n) : ModeRule mode dec e d i x fb.1 fb.2 (modeStep mode dec e d x fb i).1
      (modeStep mode dec e d x fb i).2.1 (modeStep mode dec e d x fb i).2.2 := by
  cases mode <;> cases dec <;> exact ⟨rfl, rfl, rfl⟩

/-- R184: in every mode but CTR the keystream block is the cipher of `FB0`. -/
theorem State.tailKeystream_of_ne_ctr (s : State) (h : mode ≠ .ctr) : s.tailKeystream mode = s.encrypt s.feedback.1 := by
  cases mode
  case ctr => exact absurd rfl h
  all_goals rfl

theorem State.tailBytes_getElem (s : State) (mode : Mode) {n k : Nat} (hk : k < n) (hkB : k < blockBytes s.nb) :
    (s.tailBytes mode n)[k] = s.byte .din k ^^^ (s.tailKeystream mode)[k] := by
  rw [State.tailBytes, xorBytes_getElem _ _ _ hk, State.bytes_getElem, Vector.getElem_ofFn, byteAt_lt _ _ hkB]

end Feedback

/-! `CTXINIT` (R172) -/

section Ctxinit

variable {s : State} {mode pad ivlen : Byte}

theorem raises_ctxinit_of_not_configured (hc : s.cfgValid = false) :
    Raises (.ctxinit mode pad ivlen) s ErrorName.ordNocfg.code := by
  rw [raises_iff]; simp [exec, execCtxinit, hc]

theorem raises_ctxinit_of_no_iv (hc : s.cfgValid = true) (hm : mode ≠ 0) (hi : ivlen = 0) :
    Raises (.ctxinit mode pad ivlen) s ErrorName.cfgNoiv.code := by
  rw [raises_iff]; simp only [exec, execCtxinit, hc, if_pos (And.intro hm hi), Bool.true_eq_false, if_false]

theorem raises_ctxinit_of_wrong_iv_length (hc : s.cfgValid = true) (hi : ivlen ≠ 0)
    (hl : ivlen.toNat ≠ blockBytes s.nb) : Raises (.ctxinit mode pad ivlen) s ErrorName.cfgIvsize.code := by
  have hno : ¬(mode ≠ 0 ∧ ivlen = 0) := fun h => hi h.2
  rw [raises_iff]; simp only [exec, execCtxinit, hc, if_neg hno, if_pos (And.intro hi hl), Bool.true_eq_false, if_false]

theorem exec_ctxinit_of_legal (hc : s.cfgValid = true) (h : (mode = 0 ∧ ivlen = 0) ∨ ivlen.toNat = blockBytes s.nb) :
    exec (.ctxinit mode pad ivlen) s =
      .next (State.answer 0x00 { s with mode := mode, padsel := pad, ivlen := ivlen, ivPresent := decide (ivlen ≠ 0),
                                        ctxValid := true, run := false }) := by
  have hpos := (blockBytes_bounds s.nb).1
  have hno : ¬(mode ≠ 0 ∧ ivlen = 0) := by
    rintro ⟨hm, rfl⟩
    exact h.elim (fun h => hm h.1) fun hl => absurd (hl ▸ hpos) (by decide)
  have hsize : ¬(ivlen ≠ 0 ∧ ivlen.toNat ≠ blockBytes s.nb) := fun hb => h.elim (fun h => hb.1 h.2) hb.2
  simp only [exec, execCtxinit, hc, if_neg hno, if_neg hsize, Bool.true_eq_false, if_false]

end Ctxinit

/-! `START` (R173) -/

section Start

variable {s : State} {dir : Byte} {mode : Mode}

theorem raises_start_of_not_configured (hc : s.cfgValid = false) : Raises (.start dir) s ErrorName.ordNocfg.code := by
  rw [raises_iff]; simp [exec, execStart, hc]

theorem raises_start_of_no_context (hc : s.cfgValid = true) (hx : s.ctxValid = false) :
    Raises (.start dir) s ErrorName.ordNoctx.code := by
  rw [raises_iff]; simp [exec, execStart, hc, hx]

theorem raises_start_of_no_key (hc : s.cfgValid = true) (hx : s.ctxValid = true) (hk : s.ksValid = false) :
    Raises (.start dir) s ErrorName.ordNokey.code := by
  rw [raises_iff]; simp [exec, execStart, hc, hx, hk]

theorem raises_start_of_no_mode (hc : s.cfgValid = true) (hx : s.ctxValid = true) (hk : s.ksValid = true)
    (hm : modeOf s.mode = none) : Raises (.start dir) s ErrorName.cfgSelector.code := by
  rw [raises_iff]; simp [exec, execStart, hc, hx, hk, hm]

theorem raises_start_of_bad_direction (hc : s.cfgValid = true) (hx : s.ctxValid = true) (hk : s.ksValid = true)
    (hm : modeOf s.mode = some mode) (hd : 1 < dir.toNat) : Raises (.start dir) s ErrorName.operand.code := by
  rw [raises_iff]; simp [exec, execStart, hc, hx, hk, hm, hd]

theorem exec_start_of_legal (hc : s.cfgValid = true) (hx : s.ctxValid = true) (hk : s.ksValid = true)
    (hm : modeOf s.mode = some mode) (hd : dir.toNat ≤ 1) :
    exec (.start dir) s =
      .next { s with dir := if dir = 1 then true else false, blkcnt := 0, fb0 := (s.initFeedback mode).fb0,
                     fb1 := (s.initFeedback mode).fb1, run := true, err := 0x00, res := 0x00 } := by
  have hdir : decide (dir.toNat = 1) = if dir = 1 then true else false := by
    rw [Bool.if_true_left, Bool.or_false]
    exact decide_eq_decide.mpr (BitVec.toNat_inj (y := (1 : Byte)))
  simp [exec, execStart, State.answer, hc, hx, hk, hm, Nat.not_lt.mpr hd, hdir]

end Start

/-! `MBLK` (R175) -/

section Mblk

variable {s : State} {len : Byte} {mode : Mode}

theorem raises_mblk_of_not_configured (hc : s.cfgValid = false) : Raises (.mblk len) s ErrorName.ordNocfg.code := by
  rw [raises_iff]; simp [exec, execMblk, hc]

theorem raises_mblk_of_no_call (hc : s.cfgValid = true) (hr : s.run = false) :
    Raises (.mblk len) s ErrorName.ordNoctx.code := by
  rw [raises_iff]; simp [exec, execMblk, hc, hr]

theorem raises_mblk_of_wrong_length (hc : s.cfgValid = true) (hr : s.run = true) (hl : len.toNat ≠ blockBytes s.nb) :
    Raises (.mblk len) s ErrorName.cfgBlocksize.code := by
  rw [raises_iff]; simp [exec, execMblk, hc, hr, hl]

theorem exec_mblk_of_legal (hc : s.cfgValid = true) (hr : s.run = true) (hl : len.toNat = blockBytes s.nb)
    (hm : modeOf s.mode = some mode) : exec (.mblk len) s = .next ((s.afterBlock mode).answer 0x00) := by
  simp [exec, execMblk, hc, hr, hl, hm]

/-- The bytes of the buffers are those of memory, whatever else a state holds. -/
theorem State.byte_congr {s t : State} (h : t.mem = s.mem) {b : Buffer} {k : Nat} : t.byte b k = s.byte b k := by
  rw [State.byte, State.byte, h]

/-- R175: a block writes memory, the feedback registers and the block count alone. -/
theorem State.answer_afterBlock (s : State) (mode : Mode) (v : Byte) : (s.afterBlock mode).answer v =
    { s with mem := (s.afterBlock mode).mem, fb0 := (s.afterBlock mode).fb0, fb1 := (s.afterBlock mode).fb1,
             blkcnt := s.blkcnt + 1, err := 0x00, res := v } := by
  simp only [State.afterBlock, State.answer, State.setDout, State.setBytes]

end Mblk

/-! `MPART` (R184) -/

section Mpart

variable {s : State} {n : Byte} {mode : Mode}

theorem raises_mpart_of_not_configured (hc : s.cfgValid = false) : Raises (.mpart n) s ErrorName.ordNocfg.code := by
  rw [raises_iff]; simp [exec, execMpart, hc]

theorem raises_mpart_of_no_call (hc : s.cfgValid = true) (hr : s.run = false) :
    Raises (.mpart n) s ErrorName.ordNoctx.code := by
  rw [raises_iff]; simp [exec, execMpart, hc, hr]

theorem raises_mpart_of_no_keystream (hc : s.cfgValid = true) (hr : s.run = true)
    (hm : (modeOf s.mode).filter Mode.hasKeystream = none) : Raises (.mpart n) s ErrorName.cfgBlocksize.code := by
  rw [raises_iff]; simp only [exec, execMpart, hc, hr, hm, Bool.true_eq_false, if_false]

theorem raises_mpart_of_bad_count (hc : s.cfgValid = true) (hr : s.run = true)
    (hm : (modeOf s.mode).filter Mode.hasKeystream = some mode) (hn : n.toNat < 1 ∨ blockBytes s.nb ≤ n.toNat) :
    Raises (.mpart n) s ErrorName.operand.code := by
  rw [raises_iff]; simp only [exec, execMpart, hc, hr, hm, ge_iff_le, if_pos hn, Bool.true_eq_false, if_false]

theorem exec_mpart_of_legal (hc : s.cfgValid = true) (hr : s.run = true)
    (hm : (modeOf s.mode).filter Mode.hasKeystream = some mode) (h1 : 1 ≤ n.toNat) (hn : n.toNat < blockBytes s.nb) :
    exec (.mpart n) s =
      .next (State.answer n { s.setDout (s.tailBytes mode n.toNat) with blkcnt := s.blkcnt + 1, run := false }) := by
  have hcount : ¬(n.toNat < 1 ∨ n.toNat ≥ blockBytes s.nb) := by omega
  simp only [exec, execMpart, hc, hr, hm, if_neg hcount, Bool.true_eq_false, if_false]

end Mpart

/-! The checks that begin `PAD` and `UNPAD` (R195, R200) -/

section PaddingMode

variable {s : State}

theorem State.paddingMode_of_not_configured (hc : s.cfgValid = false) : s.paddingMode = .error .ordNocfg := by
  simp [State.paddingMode, hc]

theorem State.paddingMode_of_no_context (hc : s.cfgValid = true) (hx : s.ctxValid = false) :
    s.paddingMode = .error .ordNoctx := by
  simp [State.paddingMode, hc, hx]

theorem State.paddingMode_of_no_mode (hc : s.cfgValid = true) (hx : s.ctxValid = true) (hm : 6 < s.mode.toNat) :
    s.paddingMode = .error .cfgSelector := by
  simp [State.paddingMode, hc, hx, (modeOf_eq_none _).mpr hm]

/-- R171: past the checks the mode is stream-style exactly where its selector is at least 3. -/
theorem State.paddingMode_of_legal (hc : s.cfgValid = true) (hx : s.ctxValid = true) (hm : s.mode.toNat ≤ 6) :
    ∃ mode, s.paddingMode = .ok mode ∧ mode.streamStyle = decide (3 ≤ s.mode.toNat) := by
  obtain ⟨mode, h⟩ := exists_modeOf hm
  exact ⟨mode, State.paddingMode_ok.mpr ⟨hc, hx, h⟩, streamStyle_of_modeOf h⟩

theorem State.paddingMode_of_stream (hc : s.cfgValid = true) (hx : s.ctxValid = true) (h3 : 3 ≤ s.mode.toNat)
    (h6 : s.mode.toNat ≤ 6) : ∃ mode, s.paddingMode = .ok mode ∧ mode.streamStyle = true := by
  obtain ⟨mode, hm, hs⟩ := State.paddingMode_of_legal hc hx h6
  exact ⟨mode, hm, hs.trans (decide_eq_true h3)⟩

theorem State.paddingMode_of_padded (hc : s.cfgValid = true) (hx : s.ctxValid = true) (h3 : s.mode.toNat < 3) :
    ∃ mode, s.paddingMode = .ok mode ∧ mode.streamStyle = false := by
  obtain ⟨mode, hm, hs⟩ := State.paddingMode_of_legal hc hx (by omega)
  exact ⟨mode, hm, hs.trans (decide_eq_false (Nat.not_le.mpr h3))⟩

end PaddingMode

/-! `PadBytes` (R196 to R198) and the buffers after a block is padded (R195) -/

section PadBytes

variable {len draw k : Nat}

theorem getElem_padBytes_zeros (hk : k < (padBytes .zeros len draw).length) : (padBytes .zeros len draw)[k] = 0x00 :=
  List.getElem_replicate hk

theorem getElem_padBytes_pkcs7 (hk : k < (padBytes .pkcs7 len draw).length) :
    (padBytes .pkcs7 len draw)[k] = BitVec.ofNat 8 len :=
  List.getElem_replicate hk

theorem getElem_padBytes_ansix923 (hk : k < (padBytes .ansix923 len draw).length) :
    (padBytes .ansix923 len draw)[k] = if k = len - 1 then BitVec.ofNat 8 len else 0x00 := by
  have hlen : k < len - 1 + 1 := by simpa [padBytes] using hk
  by_cases h : k < len - 1
  · rw [if_neg h.ne]
    simp [padBytes, h]
  · rw [if_pos (by omega)]
    simp [padBytes, List.getElem_append, h]

/-- R199: the last byte of ISO10126 is the length, whatever the filler. -/
theorem getElem_padBytes_iso10126_last (hk : len - 1 < (padBytes .iso10126 len draw).length) :
    (padBytes .iso10126 len draw)[len - 1] = BitVec.ofNat 8 len := by
  simp [padBytes]

end PadBytes

section Padded

variable {n j : Nat}

theorem State.byte_padded (s : State) (p : Padding) (hj : n ≤ j) (hjB : j < blockBytes s.nb) :
    ∃ hk, (s.padded p n).byte .din j = (padBytes p (blockBytes s.nb - n) s.draws)[j - n]'hk := by
  have hfit : blockBytes s.nb ≤ bufferSize := (blockBytes_bounds s.nb).2
  have hlen : (padBytes p (blockBytes s.nb - n) s.draws).length = blockBytes s.nb - n :=
    padBytes_length p _ _ (by omega)
  have hk : j - n < (padBytes p (blockBytes s.nb - n) s.draws).length := by omega
  refine ⟨hk, ?_⟩
  exact (State.byte_setBytes s .din .din n j _ (by omega) (by omega)).trans (dif_pos ⟨rfl, hj, hk⟩)

/-- R195: padding writes the bytes from `n` to the end of the block alone. -/
theorem State.read_padded_of_outside (s : State) (p : Padding) (hn : n < blockBytes s.nb) {a : Nat}
    (ha : ¬(Buffer.din.addr n ≤ a ∧ a < Buffer.din.addr (blockBytes s.nb))) :
    (s.padded p n).mem.read a = s.mem.read a := by
  have hlen : (padBytes p (blockBytes s.nb - n) s.draws).length = blockBytes s.nb - n :=
    padBytes_length p _ _ (by omega)
  refine (Memory.read_writeRange _ _ _ _).trans (dif_neg ?_)
  simp only [Buffer.addr] at ha ⊢
  omega

end Padded

/-! `PAD` (R195) -/

section Pad

variable {s : State} {n : Byte} {mode : Mode} {p : Padding}

theorem raises_pad_of_paddingMode {e : ErrorName} (h : s.paddingMode = .error e) : Raises (.pad n) s e.code := by
  rw [raises_iff]; simp [exec, execPad, h]

theorem raises_pad_of_stream_count (h : s.paddingMode = .ok mode) (hs : mode.streamStyle = true)
    (hn : blockBytes s.nb < n.toNat) : Raises (.pad n) s ErrorName.operand.code := by
  rw [raises_iff]; simp [exec, execPad, h, hs, hn]

theorem exec_pad_of_stream (h : s.paddingMode = .ok mode) (hs : mode.streamStyle = true)
    (hn : n.toNat ≤ blockBytes s.nb) : exec (.pad n) s = .next (s.answer n) := by
  simp [exec, execPad, h, hs, Nat.not_lt.mpr hn]

theorem raises_pad_of_no_padding (h : s.paddingMode = .ok mode) (hs : mode.streamStyle = false)
    (hp : paddingOf s.padsel = none) : Raises (.pad n) s ErrorName.cfgSelector.code := by
  rw [raises_iff]; simp [exec, execPad, h, hs, hp]

theorem raises_pad_of_full_block (h : s.paddingMode = .ok mode) (hs : mode.streamStyle = false)
    (hp : paddingOf s.padsel = some p) (hn : blockBytes s.nb ≤ n.toNat) :
    Raises (.pad n) s ErrorName.operand.code := by
  rw [raises_iff]; simp [exec, execPad, h, hs, hp, hn]

theorem exec_pad_of_padded (h : s.paddingMode = .ok mode) (hs : mode.streamStyle = false)
    (hp : paddingOf s.padsel = some p) (hn : n.toNat < blockBytes s.nb) :
    exec (.pad n) s = .next ((s.padded p n.toNat).answer (BitVec.ofNat 8 (blockBytes s.nb))) := by
  simp [exec, execPad, h, hs, hp, Nat.not_le.mpr hn]

end Pad

/-! `PadLength` (R201 to R204): what each scheme accepts, and the length it then reports -/

section PadLength

variable {size m : Nat} {block : Nat → Byte}

theorem padLengthInRange_iff {len : Nat} : padLengthInRange len size = true ↔ 1 ≤ len ∧ len ≤ size := by
  simp [padLengthInRange]

theorem allBytes_iff {lo hi : Nat} {v : Byte} :
    allBytes block lo hi v = true ↔ ∀ k, lo ≤ k → k < hi → block k = v := by
  simp only [allBytes, List.all_eq_true, List.mem_range, beq_iff_eq]
  refine ⟨fun h k hlo hhi => ?_, fun h k hk => h (lo + k) (by omega) (by omega)⟩
  simpa [Nat.add_sub_cancel' hlo] using h (k - lo) (by omega)

theorem padLength_pkcs7_eq_some_iff : padLength .pkcs7 size block = some m ↔
    (1 ≤ (block (size - 1)).toNat ∧ (block (size - 1)).toNat ≤ size) ∧
    (∀ k, size - (block (size - 1)).toNat ≤ k → k < size → block k = block (size - 1)) ∧
    (block (size - 1)).toNat = m := by
  simp only [padLength, Option.ite_none_right_eq_some, Bool.and_eq_true, padLengthInRange_iff, allBytes_iff,
    Option.some.injEq, and_assoc]

theorem padLength_ansix923_eq_some_iff : padLength .ansix923 size block = some m ↔
    (1 ≤ (block (size - 1)).toNat ∧ (block (size - 1)).toNat ≤ size) ∧
    (∀ k, size - (block (size - 1)).toNat ≤ k → k < size - 1 → block k = 0x00) ∧
    (block (size - 1)).toNat = m := by
  simp only [padLength, Option.ite_none_right_eq_some, Bool.and_eq_true, padLengthInRange_iff, allBytes_iff,
    Option.some.injEq, and_assoc]

theorem padLength_iso10126_eq_some_iff : padLength .iso10126 size block = some m ↔
    (1 ≤ (block (size - 1)).toNat ∧ (block (size - 1)).toNat ≤ size) ∧ (block (size - 1)).toNat = m := by
  simp only [padLength, Option.ite_none_right_eq_some, padLengthInRange_iff, Option.some.injEq]

/-- R202 to R204: every scheme that stores the length rejects a length byte outside [1, B]. -/
theorem padLength_range {p : Padding} (hp : p ≠ .zeros) (h : padLength p size block = some m) :
    1 ≤ (block (size - 1)).toNat ∧ (block (size - 1)).toNat ≤ size := by
  cases p
  case zeros => exact absurd rfl hp
  case pkcs7 => exact (padLength_pkcs7_eq_some_iff.mp h).1
  case ansix923 => exact (padLength_ansix923_eq_some_iff.mp h).1
  case iso10126 => exact (padLength_iso10126_eq_some_iff.mp h).1

end PadLength

/-! `UNPAD` (R200) -/

section Unpad

variable {s : State} {mode : Mode} {p : Padding}

theorem raises_unpad_of_paddingMode {e : ErrorName} (h : s.paddingMode = .error e) : Raises .unpad s e.code := by
  rw [raises_iff]; simp [exec, execUnpad, h]

theorem exec_unpad_of_stream (h : s.paddingMode = .ok mode) (hs : mode.streamStyle = true) :
    exec .unpad s = .next (s.answer (BitVec.ofNat 8 (blockBytes s.nb))) := by
  simp [exec, execUnpad, h, hs]

theorem raises_unpad_of_no_padding (h : s.paddingMode = .ok mode) (hs : mode.streamStyle = false)
    (hp : paddingOf s.padsel = none) : Raises .unpad s ErrorName.cfgSelector.code := by
  rw [raises_iff]; simp [exec, execUnpad, h, hs, hp]

/-- R202 to R204: `E_PAD` where the scheme reports no length. -/
theorem raises_unpad_of_malformed (h : s.paddingMode = .ok mode) (hs : mode.streamStyle = false)
    (hp : paddingOf s.padsel = some p) (hl : ∀ len, padLength p (blockBytes s.nb) (s.byte .dout) ≠ some len) :
    Raises .unpad s ErrorName.pad.code := by
  have hnone := Option.eq_none_iff_forall_ne_some.mpr hl
  rw [raises_iff]; simp [exec, execUnpad, h, hs, hp, hnone]

theorem exec_unpad_of_padLength {len : Nat} (h : s.paddingMode = .ok mode) (hs : mode.streamStyle = false)
    (hp : paddingOf s.padsel = some p) (hl : padLength p (blockBytes s.nb) (s.byte .dout) = some len) :
    exec .unpad s = .next (s.answer (BitVec.ofNat 8 (blockBytes s.nb - len))) := by
  simp [exec, execUnpad, h, hs, hp, hl]

end Unpad

end Sys2Proof.Machine

namespace Sys2Proof.Proofs

open Sys2Proof.Machine

/-- Settles O24: the checks leave `ivlen` 0 with mode 0, or the block size. -/
theorem ctxinitStoresTheContext : Obligations.CtxinitStoresTheContext := by
  unfold Obligations.CtxinitStoresTheContext
  intro mode pad ivlen s
  refine ⟨raises_ctxinit_of_not_configured, raises_ctxinit_of_no_iv, raises_ctxinit_of_wrong_iv_length,
    fun hc h => (exec_ctxinit_of_legal hc h).trans ?_⟩
  have hpresent : decide (ivlen ≠ 0) = if ivlen = 0 then false else true := by
    rw [Bool.if_false_left, Bool.and_true, decide_not]
  rw [hpresent, State.answer]

/-- Settles O25: past the checks a mode is recognised, and `InitFeedback` writes the registers of its row. -/
theorem startOpensTheCall : Obligations.StartOpensTheCall := by
  unfold Obligations.StartOpensTheCall
  intro dir s
  refine ⟨raises_start_of_not_configured, raises_start_of_no_context, raises_start_of_no_key,
    fun hc hx hk hm => raises_start_of_no_mode hc hx hk ((modeOf_eq_none _).mpr hm),
    fun hc hx hk hm hd => ?direction, fun hc hx hk hm hd => ?opened⟩ <;> obtain ⟨mode, hmode⟩ := exists_modeOf hm
  case direction => exact raises_start_of_bad_direction hc hx hk hmode hd
  case opened =>
    have hsel := modeOf_eq_some_iff.mp hmode
    refine ⟨_, _, exec_start_of_legal hc hx hk hmode hd, fun h0 => ?ecb, fun h0 h2 => ?iv, fun h2 => ?pcbc⟩
    case ecb =>
      obtain rfl : Mode.ecb = mode := Option.some.inj ((congrArg modeOf h0).symm.trans hmode)
      exact ⟨rfl, rfl⟩
    case iv =>
      rw [s.initFeedback_of_iv (mode := mode) (by rintro rfl; exact h0 hsel) (by rintro rfl; exact h2 hsel)]
      exact ⟨rfl, fun k hk => fillRegister_bytes_getElem s .ivbuf _ hk⟩
    case pcbc =>
      obtain rfl : Mode.pcbc = mode := Option.some.inj ((congrArg modeOf h2).symm.trans hmode)
      exact fun k hk => ⟨fillRegister_zeroBytes_getElem _ hk, fillRegister_bytes_getElem s .ivbuf _ hk⟩

/-- Settles O26: past the checks `MBLK` is one `ModeStep`, its output written to `DOUT` and its feedback to the first B
bytes of the registers. -/
theorem mblkProcessesTheBlock : Obligations.MblkProcessesTheBlock := by
  unfold Obligations.MblkProcessesTheBlock
  intro len s
  refine ⟨raises_mblk_of_not_configured, raises_mblk_of_no_call, raises_mblk_of_wrong_length,
    fun mode hc hr hl hmode => ?_⟩
  obtain ⟨hout, hzero, hframe⟩ := s.setDout_spec
    (modeStep mode s.dir s.encrypt s.decrypt s.inputBlock s.feedback s.blkcnt).1 (blockBytes_bounds s.nb).2
  rw [← s.afterBlock_mem] at hframe
  refine ⟨(s.afterBlock mode).answer 0x00, _, _, _, exec_mblk_of_legal hc hr hl (modeOf_eq_some_iff.mpr hmode),
    s.answer_afterBlock mode 0x00, modeStep_rule mode s.dir s.encrypt s.decrypt s.blkcnt s.inputBlock s.feedback,
    fun k hk hk32 => ⟨?_, ?_, ?_⟩, fun k hk32 hk => ⟨?_, ?_, ?_⟩, hframe⟩
  · exact (State.byte_congr (s.afterBlock_mem mode)).trans (hout k hk)
  · simp [hk]
  · simp [hk]
  · exact (State.byte_congr (s.afterBlock_mem mode)).trans (hzero k hk hk32)
  · simp [Nat.not_lt.mpr hk]
  · simp [Nat.not_lt.mpr hk]

/-- Settles O28: past the checks the mode has a keystream, and `MPART` is one write of `DOUT` by the `n` bytes XORed with
it. -/
theorem mpartProcessesTheTail : Obligations.MpartProcessesTheTail := by
  unfold Obligations.MpartProcessesTheTail
  intro n s
  refine ⟨raises_mpart_of_not_configured, raises_mpart_of_no_call,
    fun hc hr hm => raises_mpart_of_no_keystream hc hr (keystreamMode_eq_none hm),
    fun hc hr hm hn => ?count, fun hc hr hm h1 hn => ?tail⟩ <;> obtain ⟨mode, hmode, hkey⟩ := exists_keystreamMode hm
  case count => exact raises_mpart_of_bad_count hc hr hkey hn
  case tail =>
    have hfit : n.toNat ≤ bufferSize := hn.le.trans (blockBytes_bounds s.nb).2
    obtain ⟨hout, hzero, hframe⟩ := s.setDout_spec (s.tailBytes mode n.toNat) hfit
    refine ⟨_, s.tailKeystream mode, exec_mpart_of_legal hc hr hkey h1 hn, rfl, fun h5 => ?ctr, fun h5 => ?other,
      fun j hj hjn => (hout j hjn).trans (s.tailBytes_getElem mode hjn hj), hzero, hframe⟩
    case ctr =>
      obtain rfl : Mode.ctr = mode := Option.some.inj ((congrArg modeOf h5).symm.trans hmode)
      rfl
    case other => exact s.tailKeystream_of_ne_ctr (by rintro rfl; exact h5 (modeOf_eq_some_iff.mp hmode))

/-- Settles O32: past the checks `PAD` writes the bytes of the scheme at `DIN[n..B-1]`. -/
theorem padFillsTheBlock : Obligations.PadFillsTheBlock := by
  unfold Obligations.PadFillsTheBlock
  intro n s
  refine ⟨fun hc => raises_pad_of_paddingMode (State.paddingMode_of_not_configured hc),
    fun hc hx => raises_pad_of_paddingMode (State.paddingMode_of_no_context hc hx),
    fun hc hx hm => raises_pad_of_paddingMode (State.paddingMode_of_no_mode hc hx hm),
    fun hc hx h3 h6 => ?stream, fun hc hx h3 hp => ?noPadding, fun hc hx h3 hp => ?padded⟩
  case stream =>
    obtain ⟨mode, hm, hs⟩ := State.paddingMode_of_stream hc hx h3 h6
    exact ⟨raises_pad_of_stream_count hm hs, exec_pad_of_stream hm hs⟩
  case noPadding =>
    obtain ⟨mode, hm, hs⟩ := State.paddingMode_of_padded hc hx h3
    exact raises_pad_of_no_padding hm hs ((paddingOf_eq_none _).mpr hp)
  case padded =>
    obtain ⟨mode, hm, hs⟩ := State.paddingMode_of_padded hc hx h3
    obtain ⟨p, hp⟩ := exists_paddingOf hp
    refine ⟨raises_pad_of_full_block hm hs hp, fun hn => ⟨_, exec_pad_of_padded hm hs hp hn, rfl, fun j hj hjB => ?_,
      fun a ha => s.read_padded_of_outside p hn ha⟩⟩
    obtain ⟨hk, hbyte⟩ := s.byte_padded p hj hjB
    refine ⟨fun h => ?zeros, fun h => ?pkcs7, fun h => ?ansix923, fun h hlast => ?iso10126⟩ <;>
      refine hbyte.trans ?_ <;> rw [h] at hp <;> obtain rfl := Option.some.inj hp
    case zeros => exact getElem_padBytes_zeros hk
    case pkcs7 => exact getElem_padBytes_pkcs7 hk
    case ansix923 =>
      refine (getElem_padBytes_ansix923 hk).trans (if_congr ?_ rfl rfl)
      omega
    case iso10126 =>
      obtain rfl := hlast
      simp only [Nat.sub_right_comm _ 1]
      exact getElem_padBytes_iso10126_last _

/-- Settles O33: past the checks the answer is that of `PadLength`, which each scheme reports exactly for the blocks it
accepts. -/
theorem unpadReportsTheLength : Obligations.UnpadReportsTheLength := by
  unfold Obligations.UnpadReportsTheLength
  rintro s len rfl
  refine ⟨fun hc => raises_unpad_of_paddingMode (State.paddingMode_of_not_configured hc),
    fun hc hx => raises_unpad_of_paddingMode (State.paddingMode_of_no_context hc hx),
    fun hc hx hm => raises_unpad_of_paddingMode (State.paddingMode_of_no_mode hc hx hm),
    fun hc hx h3 h6 => ?stream, fun hc hx h3 => ?padded⟩
  case stream =>
    obtain ⟨mode, hm, hs⟩ := State.paddingMode_of_stream hc hx h3 h6
    exact exec_unpad_of_stream hm hs
  case padded =>
    obtain ⟨mode, hm, hs⟩ := State.paddingMode_of_padded hc hx h3
    have hsel {b : Byte} (h : s.padsel = b) : paddingOf s.padsel = paddingOf b := congrArg paddingOf h
    refine ⟨fun hp => ?noPadding, fun h => ?zeros, fun h1 hp hlen => ?range, fun h hfill => ?pkcs7,
      fun h _ _ hfill => ?ansix923, fun h1 hB h => ?wellFormed⟩
    case noPadding => exact raises_unpad_of_no_padding hm hs ((paddingOf_eq_none _).mpr hp)
    case zeros => exact exec_unpad_of_padLength (len := 0) hm hs (hsel h) rfl
    case range =>
      obtain ⟨p, hp⟩ := exists_paddingOf hp
      have hne : p ≠ .zeros := by
        rintro rfl
        rw [paddingOf_eq_some_iff.mp hp] at h1
        exact absurd h1 (by decide)
      refine raises_unpad_of_malformed hm hs hp fun len hl => ?_
      obtain ⟨hlo, hhi⟩ := padLength_range hne hl
      omega
    case pkcs7 =>
      obtain ⟨k, hlo, hhi, hk⟩ := hfill
      refine raises_unpad_of_malformed hm hs (hsel h) fun len hl => ?_
      obtain ⟨-, hsame, -⟩ := padLength_pkcs7_eq_some_iff.mp hl
      exact hk (congrArg BitVec.toNat (hsame k hlo hhi))
    case ansix923 =>
      obtain ⟨k, hlo, hhi, hk⟩ := hfill
      refine raises_unpad_of_malformed hm hs (hsel h) fun len hl => ?_
      obtain ⟨-, hzero, -⟩ := padLength_ansix923_eq_some_iff.mp hl
      exact hk (hzero k hlo hhi)
    case wellFormed =>
      rcases h with ⟨h, hfill⟩ | ⟨h, hfill⟩ | h <;> refine exec_unpad_of_padLength hm hs (hsel h) ?_
      · exact padLength_pkcs7_eq_some_iff.mpr
          ⟨⟨h1, hB⟩, fun k hlo hhi => BitVec.eq_of_toNat_eq (hfill k hlo hhi), rfl⟩
      · exact padLength_ansix923_eq_some_iff.mpr ⟨⟨h1, hB⟩, hfill, rfl⟩
      · exact padLength_iso10126_eq_some_iff.mpr ⟨⟨h1, hB⟩, rfl⟩

end Sys2Proof.Proofs

/-! PROOFS. Buffers and status (`45_buffer_status.md` rules R221 to R223). The buffers the host writes and reads and the bits
of `FLAGS`, then the answer of each command case by case; the statements follow. -/

namespace Sys2Proof.Machine

/-! Buffer ids and access rights (R41, R220) -/

section Access

variable {buf : Byte} {b : Buffer}

theorem bufferOf_eq_some_iff : bufferOf buf = some b ↔ b.id = buf.toNat := by
  revert buf
  cases b <;> decide

theorem hostWrites_eq_decide (b : Buffer) : b.hostWrites = decide (b.id ≤ 2) := by cases b <;> rfl

theorem hostReads_eq_decide (b : Buffer) : b.hostReads = decide (b.id = 2 ∨ b.id = 3) := by cases b <;> rfl

/-- R222: the buffers of `WRB` are those with an id of at most 2. -/
theorem writableBuffer_eq_some (hb : b.id = buf.toNat) (h : buf.toNat ≤ 2) :
    (bufferOf buf).filter Buffer.hostWrites = some b :=
  Option.filter_eq_some_iff.mpr ⟨bufferOf_eq_some_iff.mpr hb, by rw [hostWrites_eq_decide, hb]; exact decide_eq_true h⟩

theorem writableBuffer_eq_none (h : 2 < buf.toNat) : (bufferOf buf).filter Buffer.hostWrites = none := by
  refine Option.filter_eq_none_iff.mpr fun b hb => ?_
  rw [hostWrites_eq_decide, bufferOf_eq_some_iff.mp hb, decide_eq_true_eq]
  omega

/-- R221: the buffers of `RDB` are those with the id 2 or 3. -/
theorem readableBuffer_eq_some (hb : b.id = buf.toNat) (h : buf.toNat = 2 ∨ buf.toNat = 3) :
    (bufferOf buf).filter Buffer.hostReads = some b :=
  Option.filter_eq_some_iff.mpr ⟨bufferOf_eq_some_iff.mpr hb, by rw [hostReads_eq_decide, hb]; exact decide_eq_true h⟩

theorem readableBuffer_eq_none (h : buf.toNat ≠ 2 ∧ buf.toNat ≠ 3) : (bufferOf buf).filter Buffer.hostReads = none := by
  refine Option.filter_eq_none_iff.mpr fun b hb => ?_
  rw [hostReads_eq_decide, bufferOf_eq_some_iff.mp hb, decide_eq_true_eq]
  omega

end Access

/-! `WRB` and `RDB` (R221, R222) -/

section ByteAccess

variable {s : State} {buf idx : Byte} {b : Buffer}

theorem raises_wrb_of_no_buffer (val : Byte) (h : (bufferOf buf).filter Buffer.hostWrites = none) :
    Raises (.wrb buf idx val) s ErrorName.operand.code := by
  rw [raises_iff]; simp only [exec, execWrb, h]

/-- The index is checked whatever the buffer id is. -/
theorem raises_wrb_of_bad_index (val : Byte) (hi : bufferSize ≤ idx.toNat) :
    Raises (.wrb buf idx val) s ErrorName.operand.code := by
  cases h : (bufferOf buf).filter Buffer.hostWrites with
  | none => exact raises_wrb_of_no_buffer val h
  | some b => rw [raises_iff]; simp only [exec, execWrb, h, if_neg (Nat.not_lt.mpr hi)]

theorem exec_wrb_of_legal (val : Byte) (h : (bufferOf buf).filter Buffer.hostWrites = some b)
    (hi : idx.toNat < bufferSize) :
    exec (.wrb buf idx val) s = .next ((s.setByte b idx.toNat val).answer 0x00) := by
  simp only [exec, execWrb, h, if_pos hi]

theorem raises_rdb_of_no_buffer (h : (bufferOf buf).filter Buffer.hostReads = none) :
    Raises (.rdb buf idx) s ErrorName.operand.code := by
  rw [raises_iff]; simp only [exec, execRdb, h]

/-- The index is checked whatever the buffer id is. -/
theorem raises_rdb_of_bad_index (hi : bufferSize ≤ idx.toNat) : Raises (.rdb buf idx) s ErrorName.operand.code := by
  cases h : (bufferOf buf).filter Buffer.hostReads with
  | none => exact raises_rdb_of_no_buffer h
  | some b => rw [raises_iff]; simp only [exec, execRdb, h, if_neg (Nat.not_lt.mpr hi)]

theorem exec_rdb_of_legal (h : (bufferOf buf).filter Buffer.hostReads = some b) (hi : idx.toNat < bufferSize) :
    exec (.rdb buf idx) s = .next (s.answer (s.byte b idx.toNat)) := by
  simp only [exec, execRdb, h, if_pos hi]

/-- R222: a byte written is the byte read at its index, and every other address keeps its byte. -/
theorem State.setByte_spec (s : State) (b : Buffer) (i : Nat) (v : Byte) :
    (s.setByte b i v).byte b i = v ∧ ∀ a, a ≠ b.addr i → (s.setByte b i v).mem.read a = s.mem.read a :=
  ⟨Memory.read_write_same _ _ _, fun _ ha => Memory.read_write_other _ _ _ _ ha⟩

end ByteAccess

/-! `RDST` (R27, R223) -/

section Status

variable {s : State} {sel : Byte}

theorem getLsbD_bitAt (c : Bool) {i : Nat} (hi : i < 8) (j : Nat) : (bitAt c i).getLsbD j = (c && decide (i = j)) := by
  have hone : (0x01 : Byte) <<< i = BitVec.twoPow 8 i := (BitVec.twoPow_eq 8 i).symm
  cases c with
  | false => exact BitVec.getLsbD_zero
  | true => simp only [bitAt, if_true, hone, BitVec.getLsbD_twoPow, hi, decide_true]

/-- R27: the seven flags from bit 0 on, and bit 7 zero. -/
theorem State.getLsbD_flags (s : State) :
    s.flags.getLsbD 0 = s.cfgValid ∧ s.flags.getLsbD 1 = s.sbValid ∧ s.flags.getLsbD 2 = s.ksValid ∧
    s.flags.getLsbD 3 = s.ctxValid ∧ s.flags.getLsbD 4 = s.run ∧ s.flags.getLsbD 5 = s.dir ∧
    s.flags.getLsbD 6 = s.ivPresent ∧ s.flags.getLsbD 7 = false := by
  simp only [State.flags, BitVec.getLsbD_or, getLsbD_bitAt, Nat.reduceLT]
  simp

/-- R223: every selector of the table is at most 8. -/
theorem State.statusByte_eq_none (h : 8 < sel.toNat) : s.statusByte sel = none := by
  unfold State.statusByte
  split
  case h_10 => rfl
  all_goals omega

theorem raises_rdst_of_no_status (h : s.statusByte sel = none) : Raises (.rdst sel) s ErrorName.operand.code := by
  rw [raises_iff]; simp only [exec, execRdst, h]

theorem exec_rdst_of_statusByte {v : Byte} (h : s.statusByte sel = some v) : exec (.rdst sel) s = .next (s.answer v) := by
  simp only [exec, execRdst, h]

end Status

end Sys2Proof.Machine

namespace Sys2Proof.Proofs

open Sys2Proof.Machine

/-- Settles O37: past the checks of the buffer id and the index, `WRB` is one write of the buffer space. -/
theorem wrbWritesOneByte : Obligations.WrbWritesOneByte := by
  unfold Obligations.WrbWritesOneByte
  intro buf idx val s
  refine ⟨fun h => h.elim (fun hbuf => ?buffer) fun hidx => ?index, fun b hb hbuf hidx => ?write⟩
  case buffer => exact raises_wrb_of_no_buffer val (writableBuffer_eq_none hbuf)
  case index => exact raises_wrb_of_bad_index val hidx
  case write =>
    have hexec := exec_wrb_of_legal (s := s) val (writableBuffer_eq_some hb hbuf) (Nat.lt_succ_of_le hidx)
    exact ⟨_, hexec, rfl, s.setByte_spec b idx.toNat val⟩

/-- Settles O38: past the checks of the buffer id and the index, `RDB` answers the byte of the buffer the id names. -/
theorem rdbAnswersTheByte : Obligations.RdbAnswersTheByte := by
  unfold Obligations.RdbAnswersTheByte
  intro buf idx s
  refine ⟨fun h => h.elim (fun hbuf => ?buffer) fun hidx => ?index, fun hbuf hidx => ?din, fun hbuf hidx => ?dout⟩
  case buffer => exact raises_rdb_of_no_buffer (readableBuffer_eq_none hbuf)
  case index => exact raises_rdb_of_bad_index hidx
  case din => exact exec_rdb_of_legal (readableBuffer_eq_some hbuf.symm (.inl hbuf)) (Nat.lt_succ_of_le hidx)
  case dout => exact exec_rdb_of_legal (readableBuffer_eq_some hbuf.symm (.inr hbuf)) (Nat.lt_succ_of_le hidx)

/-- Settles O39: `StatusByte` by its selector, and the flag byte bit by bit. -/
theorem rdstAnswersTheStatus : Obligations.RdstAnswersTheStatus := by
  unfold Obligations.RdstAnswersTheStatus
  intro s
  refine ⟨fun sel hsel => ?error, ⟨s.flags, exec_rdst_of_statusByte rfl, s.getLsbD_flags⟩, ?registers⟩
  case error => exact raises_rdst_of_no_status (State.statusByte_eq_none hsel)
  case registers => refine ⟨?_, ?_, ?_, ?_, ?_, ?_, ?_, ?_⟩ <;> exact exec_rdst_of_statusByte rfl

end Sys2Proof.Proofs

/-! PROOFS. Exceptions (`60_exceptions.md` rule R252). Every command that completes raises an error over the state before it
or ends with `ERR` 0, said once over the commands; the response in numbers; the statement follows. -/

namespace Sys2Proof.Machine

variable {s t : State}

/-- R10, R252, R253: there is no third way for a command to complete. Every error is taken by `raise` from the state BEFORE the
command, also where the lazy build of `EnsureSbox` stands before the check. -/
theorem exec_raises_or_err_eq_zero {i : Instr} (h : exec i s = .next t) : (∃ e, t = s.raise e) ∨ t.err = 0x00 := by
  cases i with
  | gfadd | gfmul | gfinv | gfirr | rst => exact .inr (Host.Outcome.next.inj h ▸ rfl)
  | gfirrn =>
    obtain ⟨-, rfl⟩ | ⟨-, rfl⟩ := execGfirrn_next h
    exacts [.inl ⟨_, rfl⟩, .inr rfl]
  | cfg =>
    obtain ⟨-, rfl⟩ | ⟨_, _, -, -, rfl⟩ := execCfg_next h
    exacts [.inl ⟨_, rfl⟩, .inr rfl]
  | sbgen =>
    obtain ⟨e, -, rfl⟩ | ⟨_, -, rfl⟩ := execSbgen_next h
    exacts [.inl ⟨e, rfl⟩, .inr rfl]
  | sbfwd =>
    obtain ⟨e, -, rfl⟩ | ⟨_, -, rfl⟩ := execSbfwd_next h
    exacts [.inl ⟨e, rfl⟩, .inr rfl]
  | sbinv =>
    obtain ⟨e, -, rfl⟩ | ⟨_, -, rfl⟩ := execSbinv_next h
    exacts [.inl ⟨e, rfl⟩, .inr rfl]
  | kexp =>
    obtain ⟨-, rfl⟩ | ⟨-, -, rfl⟩ | ⟨-, -, e, -, rfl⟩ | ⟨-, -, _, -, rfl⟩ := execKexp_next h
    exacts [.inl ⟨_, rfl⟩, .inl ⟨_, rfl⟩, .inl ⟨e, rfl⟩, .inr rfl]
  | rcon =>
    obtain ⟨-, rfl⟩ | ⟨-, rfl⟩ := execRcon_next h
    exacts [.inl ⟨_, rfl⟩, .inr rfl]
  | encb =>
    obtain ⟨e, -, rfl⟩ | ⟨-, rfl⟩ := execEncb_next h
    exacts [.inl ⟨e, rfl⟩, .inr rfl]
  | decb =>
    obtain ⟨e, -, rfl⟩ | ⟨-, rfl⟩ := execDecb_next h
    exacts [.inl ⟨e, rfl⟩, .inr rfl]
  | ctxinit =>
    obtain ⟨-, rfl⟩ | ⟨-, -, -, rfl⟩ | ⟨-, -, -, rfl⟩ | ⟨-, -, -, rfl⟩ := execCtxinit_next h
    exacts [.inl ⟨_, rfl⟩, .inl ⟨_, rfl⟩, .inl ⟨_, rfl⟩, .inr rfl]
  | start =>
    obtain ⟨-, rfl⟩ | ⟨-, -, rfl⟩ | ⟨-, -, -, rfl⟩ | ⟨-, -, -, -, rfl⟩ | ⟨-, -, -, _, -, ⟨-, rfl⟩ | ⟨-, rfl⟩⟩ :=
      execStart_next h
    exacts [.inl ⟨_, rfl⟩, .inl ⟨_, rfl⟩, .inl ⟨_, rfl⟩, .inl ⟨_, rfl⟩, .inl ⟨_, rfl⟩, .inr rfl]
  | mblk =>
    obtain ⟨-, rfl⟩ | ⟨-, -, rfl⟩ | ⟨-, -, -, rfl⟩ | ⟨-, -, -, _, -, rfl⟩ := execMblk_next h
    exacts [.inl ⟨_, rfl⟩, .inl ⟨_, rfl⟩, .inl ⟨_, rfl⟩, .inr rfl]
  | mpart =>
    obtain ⟨-, rfl⟩ | ⟨-, -, rfl⟩ | ⟨-, -, -, rfl⟩ | ⟨-, -, _, -, ⟨-, rfl⟩ | ⟨-, -, rfl⟩⟩ := execMpart_next h
    exacts [.inl ⟨_, rfl⟩, .inl ⟨_, rfl⟩, .inl ⟨_, rfl⟩, .inl ⟨_, rfl⟩, .inr rfl]
  | pad =>
    obtain ⟨e, -, rfl⟩ | ⟨_, -, ⟨-, -, rfl⟩ | ⟨-, -, rfl⟩ | ⟨-, -, rfl⟩ | ⟨-, _, -, ⟨-, rfl⟩ | ⟨-, rfl⟩⟩⟩ :=
      execPad_next h
    exacts [.inl ⟨e, rfl⟩, .inl ⟨_, rfl⟩, .inr rfl, .inl ⟨_, rfl⟩, .inl ⟨_, rfl⟩, .inr rfl]
  | unpad =>
    obtain ⟨e, -, rfl⟩ | ⟨_, -, ⟨-, rfl⟩ | ⟨-, -, rfl⟩ | ⟨-, _, -, ⟨-, rfl⟩ | ⟨_, -, rfl⟩⟩⟩ := execUnpad_next h
    exacts [.inl ⟨e, rfl⟩, .inr rfl, .inl ⟨_, rfl⟩, .inl ⟨_, rfl⟩, .inr rfl]
  | wrb =>
    obtain ⟨rfl, -⟩ | ⟨_, -, -, rfl⟩ := execWrb_next h
    exacts [.inl ⟨_, rfl⟩, .inr rfl]
  | rdb =>
    obtain ⟨rfl, -⟩ | ⟨_, -, -, rfl⟩ := execRdb_next h
    exacts [.inl ⟨_, rfl⟩, .inr rfl]
  | rdst =>
    obtain ⟨-, rfl⟩ | ⟨_, -, rfl⟩ := execRdst_next h
    exacts [.inl ⟨_, rfl⟩, .inr rfl]

/-- A command that ends with `ERR` not 0 raised the error. -/
theorem exec_raises_of_err_ne_zero {i : Instr} (h : exec i s = .next t) (herr : t.err ≠ 0x00) : ∃ e, t = s.raise e :=
  (exec_raises_or_err_eq_zero h).resolve_right herr

/-- R65: `ERR` is the high byte of the response and `RES` the low byte. -/
theorem State.response_toNat (s : State) : s.response.toNat = s.err.toNat * 2 ^ 8 + s.res.toNat := by
  rw [State.response, BitVec.toNat_append, ← Nat.shiftLeft_add_eq_or_of_lt s.res.isLt, Nat.shiftLeft_eq]

/-- R252: the response to an error is its code shifted left by 8. -/
theorem State.response_raise_toNat (s : State) (e : ErrorName) : (s.raise e).response.toNat = e.code.toNat * 2 ^ 8 := by
  simp [State.response_toNat]

end Sys2Proof.Machine

namespace Sys2Proof.Proofs

open Sys2Proof.Machine

/-- Settles O42: an error is always taken by `raise`, which writes `ERR`, `RES` and one bit of `EFLAGS` over the state before
the command. -/
theorem errorsArePrecise : Obligations.ErrorsArePrecise := by
  unfold Obligations.ErrorsArePrecise
  intro i s t h herr
  obtain ⟨e, rfl⟩ := exec_raises_of_err_ne_zero h herr
  exact ⟨rfl, s.response_raise_toNat e⟩

end Sys2Proof.Proofs

/-! PROOFS. Reset (`70_reset_and_hazards.md` rule R281). The buffers, the tables and the schedule at reset entry by entry, then
which commands need a configuration, in any state; the statement follows. -/

namespace Sys2Proof.Machine

/-! The stores at reset (R30) -/

theorem State.byte_reset (b : Buffer) (i : Nat) : State.reset.byte b i = 0x00 := rfl

theorem lookup_zeroBytes (x : Byte) : lookup (zeroBytes 256) x = 0x00 := Vector.getElem_replicate _

/-- The words beyond the store read as the words of the store do. -/
theorem State.wordAt_reset (i : Nat) : wordAt State.reset.w i = zeroBytes 4 := by
  rw [wordAt, State.reset, Vector.getElem?_replicate]
  split <;> rfl

/-! The commands that need a configuration (R281) -/

section NotConfigured

variable {s : State}

/-- The check of `CFG_VALID` stands first in every one of these commands. -/
theorem raises_ordNocfg_of_not_configured (hc : s.cfgValid = false) (a b m : Byte) :
    ∀ i ∈ [Instr.sbgen, .sbfwd a, .sbinv a, .kexp a, .encb a, .decb a, .ctxinit a b m, .start a, .mblk a, .mpart a,
      .pad a, .unpad], Raises i s ErrorName.ordNocfg.code := by
  have hbox := State.withSbox_of_not_configured hc
  have hblock : s.blockCheck a = some .ordNocfg := State.blockCheck_of_not_configured hc
  have hpad := State.paddingMode_of_not_configured hc
  simp only [List.forall_mem_cons]
  exact ⟨raises_sbgen_of_error hbox, raises_sbfwd_of_error hbox a, raises_sbinv_of_error hbox a,
    raises_kexp_of_not_configured hc, raises_encb_of_blockCheck hblock, raises_decb_of_blockCheck hblock,
    raises_ctxinit_of_not_configured hc, raises_start_of_not_configured hc, raises_mblk_of_not_configured hc,
    raises_mpart_of_not_configured hc, raises_pad_of_paddingMode hpad, raises_unpad_of_paddingMode hpad,
    List.forall_mem_nil _⟩

end NotConfigured

/-! The commands that need none (R281) -/

/-- R281, "work": the command completes, and not with `E_ORD_NOCFG`; another error of its own is no matter. -/
def Works (i : Instr) (s : State) : Prop := ∃ t, exec i s = .next t ∧ t.err ≠ ErrorName.ordNocfg.code

section Works

variable {i : Instr} {s : State}

theorem works_of_answer {t : State} {v : Byte} (h : exec i s = .next (t.answer v)) : Works i s :=
  ⟨_, h, by rw [State.answer_err]; decide⟩

theorem works_of_raises {e : ErrorName} (h : Raises i s e.code) (he : e.code ≠ ErrorName.ordNocfg.code) : Works i s :=
  ⟨_, raises_iff.mp h, he⟩

variable (s)

theorem works_gfirrn (k : Byte) : Works (.gfirrn k) s := by
  cases hk : irreducibleList[k.toNat]? with
  | none => exact works_of_raises (e := .operand) (by rw [raises_iff, exec, execGfirrn, hk]) (by decide)
  | some p => exact works_of_answer (by rw [exec, execGfirrn, hk])

theorem works_rcon (j : Byte) : Works (.rcon j) s := by
  by_cases hj : j = 0
  · exact works_of_raises (e := .operand) (by rw [raises_iff, exec, execRcon, if_pos hj]) (by decide)
  · exact works_of_answer (exec_rcon_of_ne_zero hj s)

theorem works_wrb (buf idx val : Byte) : Works (.wrb buf idx val) s := by
  cases hb : (bufferOf buf).filter Buffer.hostWrites with
  | none => exact works_of_raises (raises_wrb_of_no_buffer val hb) (by decide)
  | some b =>
    rcases Nat.lt_or_ge idx.toNat bufferSize with hi | hi
    · exact works_of_answer (exec_wrb_of_legal val hb hi)
    · exact works_of_raises (raises_wrb_of_bad_index val hi) (by decide)

theorem works_rdb (buf idx : Byte) : Works (.rdb buf idx) s := by
  cases hb : (bufferOf buf).filter Buffer.hostReads with
  | none => exact works_of_raises (raises_rdb_of_no_buffer hb) (by decide)
  | some b =>
    rcases Nat.lt_or_ge idx.toNat bufferSize with hi | hi
    · exact works_of_answer (exec_rdb_of_legal hb hi)
    · exact works_of_raises (raises_rdb_of_bad_index hi) (by decide)

theorem works_rdst (sel : Byte) : Works (.rdst sel) s := by
  cases hv : s.statusByte sel with
  | none => exact works_of_raises (raises_rdst_of_no_status hv) (by decide)
  | some v => exact works_of_answer (exec_rdst_of_statusByte hv)

theorem works_cfg (nk nb m : Byte) : Works (.cfg nk nb m) s := by
  cases hk : wordCount nk with
  | none => exact works_of_raises (raises_cfg_of_none (.inl hk) m) (by decide)
  | some k =>
    cases hb : wordCount nb with
    | none => exact works_of_raises (raises_cfg_of_none (.inr hb) m) (by decide)
    | some b => exact works_of_answer (exec_cfg_of_some hk hb m)

/-- These commands work in every state, configured or not. -/
theorem works_of_no_configuration_check (a b m : Byte) :
    ∀ i ∈ [Instr.gfadd a b, .gfmul a b m, .gfinv a m, .gfirr a, .gfirrn a, .rcon a, .wrb a b m, .rdb a b, .rdst a, .rst,
      .cfg a b m], Works i s := by
  simp only [List.forall_mem_cons]
  exact ⟨works_of_answer (exec_gfadd a b s), works_of_answer (t := s) rfl, works_of_answer (exec_gfinv a m s),
    works_of_answer (exec_gfirr a s), works_gfirrn s a, works_rcon s a, works_wrb s a b m, works_rdb s a b,
    works_rdst s a, works_of_answer (t := s.toReset) rfl, works_cfg s a b m, List.forall_mem_nil _⟩

end Works

end Sys2Proof.Machine

namespace Sys2Proof.Proofs

open Sys2Proof.Machine

/-- Settles O40: the registers are those `State.reset` writes out, every store is all zero, and since `CFG_VALID` is 0 the
commands divide by whether they check it first. -/
theorem resetStateIsTheTable : Obligations.ResetStateIsTheTable := by
  unfold Obligations.ResetStateIsTheTable
  refine ⟨⟨rfl, rfl, rfl⟩, ⟨rfl, rfl, rfl, rfl, rfl, rfl, rfl⟩, ⟨rfl, rfl, rfl, rfl⟩, ⟨rfl, rfl, rfl, rfl⟩,
    State.byte_reset, fun i hi => ?feedback, fun x => ?tables, State.wordAt_reset, fun a b m => ?commands⟩
  case feedback => exact ⟨Vector.getElem_replicate hi, Vector.getElem_replicate hi⟩
  case tables => exact ⟨lookup_zeroBytes x, lookup_zeroBytes x⟩
  case commands =>
    exact ⟨works_of_no_configuration_check State.reset a b m, raises_ordNocfg_of_not_configured rfl a b m⟩

end Sys2Proof.Proofs

/-! PROOFS. Encoding (`30_encoding.md` rules R60 to R70). The decoder and the encoder are inverse to each other on the
fields, hence on the words; the columns `match` and `mask` of R62 are the field-use table written as words. -/

namespace Sys2Proof

/-- R62, R68: the fields the encoder writes are those the decoder reads. -/
theorem decodeFields_encodeFields (i : Instr) : decodeFields (encodeFields i) = .ok i := by
  cases i <;> rfl

/-- R62, R63: the decoder drops no field: an operand is in the command, and a field that is in none is zero. -/
theorem encodeFields_of_decodeFields {f : Fields} {i : Instr} (h : decodeFields f = .ok i) : encodeFields i = f := by
  obtain ⟨op, a, b, m⟩ := f
  have hop {n : Nat} (hn : op.toNat = n) : op = BitVec.ofNat 8 n := by rw [← hn, BitVec.ofNat_toNat, BitVec.setWidth_eq]
  unfold decodeFields at h
  split at h
  case h_24 => cases h
  all_goals
    next hn =>
    simp only [ifReservedZero_ok, Bool.and_eq_true, beq_iff_eq, Except.ok.injEq] at h
    obtain rfl := hop hn
    grind [encodeFields]

theorem encode_of_decode {w : CommandWord} {i : Instr} (h : decode w = .ok i) : encode i = w := by
  rw [encode, encodeFields_of_decodeFields h, wordOf_fieldsOf]

/-- The opcode of the command a word decodes to is the opcode of the word. -/
theorem encodeFields_op_of_decode {w : CommandWord} {i : Instr} (h : decode w = .ok i) :
    (encodeFields i).op = (fieldsOf w).op := by
  rw [encodeFields_of_decodeFields h]

/-! The columns `match` and `mask` (R62) -/

/-- The column `mask` of a row: the opcode and the fields the command does not use. -/
def FieldUse.mask (u : FieldUse) : Fields :=
  ⟨0xFF, if u.a then 0x00 else 0xFF, if u.b then 0x00 else 0xFF, if u.m then 0x00 else 0xFF⟩

/-- R62: the columns `match` and `mask` say of each row what the columns `op` and "fields used" say. -/
theorem maskTable_eq_map : maskTable = fieldUseTable.map fun row => (wordOf ⟨row.1, 0, 0, 0⟩, wordOf row.2.mask) := by
  decide

theorem wordOf_injective : Function.Injective wordOf := Function.LeftInverse.injective fieldsOf_wordOf

theorem wordOf_and (f g : Fields) :
    wordOf f &&& wordOf g = wordOf ⟨f.op &&& g.op, f.a &&& g.a, f.b &&& g.b, f.m &&& g.m⟩ := by
  refine (BitVec.and_append (x₁ := f.op ++ f.a ++ f.b) (y₁ := f.m)).trans ?_
  rw [BitVec.and_append, BitVec.and_append, wordOf]

theorem and_ff (x : Byte) : x &&& 0xFF = x := BitVec.and_allOnes

/-- A mask byte selects nothing of a field that is used and all of one that is not. -/
theorem and_maskByte_eq_zero (x : Byte) (used : Bool) : x &&& (if used then 0x00 else 0xFF) = 0 ↔ (used || x == 0) = true := by
  cases used with
  | true => simp
  | false =>
    rw [if_neg Bool.false_ne_true, and_ff]
    simp

/-- R62: a word selects a row exactly where it has the row's opcode and its reserved fields are zero (R63). -/
theorem and_mask_eq_match (w : CommandWord) (op : Byte) (u : FieldUse) :
    w &&& wordOf u.mask = wordOf ⟨op, 0, 0, 0⟩ ↔ (fieldsOf w).op = op ∧ (fieldsOf w).reservedZero u = true := by
  conv_lhs => rw [← wordOf_fieldsOf w, wordOf_and, wordOf_injective.eq_iff]
  simp only [FieldUse.mask, Fields.mk.injEq, and_maskByte_eq_zero, and_ff, Fields.reservedZero, Bool.and_eq_true, and_assoc]

/-- R63: a word with a listed opcode decodes to a command exactly where its reserved fields are zero. -/
theorem exists_decode_iff {w : CommandWord} {u : FieldUse} (h : fieldUse (fieldsOf w).op = some u) :
    (∃ i, decode w = .ok i) ↔ (fieldsOf w).reservedZero u = true := by
  obtain ⟨j, hj⟩ := decodeFields_of_fieldUse h
  have hdecode : decode w = ifReservedZero ((fieldsOf w).reservedZero u) j := hj
  simp [hdecode, ifReservedZero_ok]

theorem fieldUse_of_mem : ∀ row ∈ fieldUseTable, fieldUse row.1 = some row.2 := by decide

end Sys2Proof

namespace Sys2Proof.Proofs

open Sys2Proof.Machine

/-- Settles O1: the fields of a command decode to it, and fields and words are two views of one value. -/
theorem decodeOfEncodeIsTheCommand : Obligations.DecodeOfEncodeIsTheCommand := by
  unfold Obligations.DecodeOfEncodeIsTheCommand
  intro i
  rw [decode, encode, fieldsOf_wordOf, decodeFields_encodeFields]

/-- Settles O2: each arm of the decoder puts every field into the command or requires it zero. -/
theorem encodeOfDecodeIsTheWord : Obligations.EncodeOfDecodeIsTheWord := by
  unfold Obligations.EncodeOfDecodeIsTheWord
  exact fun w i => encode_of_decode

/-- Settles O3: the row's opcode and zero reserved fields are what both the mask and the decoder ask. -/
theorem maskTableSelectsCommands : Obligations.MaskTableSelectsCommands := by
  unfold Obligations.MaskTableSelectsCommands
  intro w row hrow
  rw [maskTable_eq_map] at hrow
  obtain ⟨⟨op, u⟩, hmem, rfl⟩ := List.mem_map.mp hrow
  have hop : (wordOf ⟨op, 0, 0, 0⟩).extractLsb' 24 8 = op := congrArg Fields.op (fieldsOf_wordOf ⟨op, 0, 0, 0⟩)
  rw [and_mask_eq_match, hop]
  constructor
  · rintro ⟨rfl, hz⟩
    obtain ⟨i, hi⟩ := (exists_decode_iff (fieldUse_of_mem _ hmem)).mpr hz
    exact ⟨i, hi, encodeFields_op_of_decode hi⟩
  · rintro ⟨i, hi, rfl⟩
    rw [encodeFields_op_of_decode hi] at hmem ⊢
    exact ⟨rfl, (exists_decode_iff (fieldUse_of_mem _ hmem)).mp ⟨i, hi⟩⟩

/-- Settles O4: the words as printed. -/
theorem exampleWordsOfEncoding : Obligations.ExampleWordsOfEncoding := by
  unfold Obligations.ExampleWordsOfEncoding
  decide

/-- Settles O7. -/
theorem stepRunsTheDecodedCommand : Obligations.StepRunsTheDecodedCommand := by
  unfold Obligations.StepRunsTheDecodedCommand
  exact fun s w rest i hs hd => step_of_decode_ok hs hd

end Sys2Proof.Proofs

/-! PROOFS. Field arithmetic, tables, round constants (`40_field_arithmetic.md` rules R81 to R92, `41_sbox.md` rule R109,
`42_key_expansion.md` rule R120). `Mul` in the quotient by `x^8 + m` gives the ring laws and the product with remainder; the
list of irreducible moduli against `IsIrreducible`; the powers of `x` under `0x1B`. -/

namespace Sys2Proof.Machine

open Polynomial

/-! The laws of `Mul` (R81, R82) -/

section Mul

variable (m a b c : Byte)

theorem fieldMul_comm : fieldMul a b m = fieldMul b a m :=
  residue_injective m (by rw [residue_fieldMul, residue_fieldMul, mul_comm])

theorem fieldMul_assoc : fieldMul (fieldMul a b m) c m = fieldMul a (fieldMul b c m) m :=
  residue_injective m (by simp only [residue_fieldMul, mul_assoc])

theorem fieldMul_xor : fieldMul a (b ^^^ c) m = fieldMul a b m ^^^ fieldMul a c m :=
  residue_injective m (by simp only [residue_fieldMul, residue_xor, mul_add])

theorem fieldMul_zero : fieldMul a 0 m = 0 := residue_injective m (by simp)

theorem fieldMul_one : fieldMul a 1 m = a := residue_injective m (by simp)

/-- The residue of the byte 2 is that of `x`. -/
theorem residue_two : residue m 2 = AdjoinRoot.root (fieldPoly m) := by
  have h : bitPoly (2 : Byte) = X := by simp [bitPoly, Finset.sum_range_succ]
  rw [residue, h, AdjoinRoot.mk_X]

/-- R81: multiplying by 2 is one doubling. -/
theorem fieldMul_two : fieldMul a 2 m = xtime m a :=
  residue_injective m (by rw [residue_fieldMul, residue_xtime, residue_two, mul_comm])

theorem xtime_eq_xor : xtime m a = (a <<< 1) ^^^ (if a.getLsbD 7 then m else 0) := by
  have hmsb : a.msb = a.getLsbD 7 := BitVec.msb_eq_getLsbD_last a
  rw [xtime, hmsb]
  split
  · rfl
  · exact BitVec.xor_zero.symm

/-- R82: the carry-less product exceeds `Mul` by a multiple of `x^8 + m`, whose cofactor has degree below 8. -/
theorem exists_carryless_eq : ∃ q : Byte, carryless (a.setWidth 16) (b.setWidth 16) =
    carryless (q.setWidth 16) (0x100 ||| m.setWidth 16) ^^^ (fieldMul a b m).setWidth 16 := by
  have hdvd : fieldPoly m ∣ bitPoly a * bitPoly b - bitPoly (fieldMul a b m) := by
    rw [← AdjoinRoot.mk_eq_mk, map_mul]
    exact (residue_fieldMul m a b).symm
  obtain ⟨f, hf⟩ := hdvd
  have hprod : bitPoly a * bitPoly b = f * fieldPoly m + bitPoly (fieldMul a b m) := by
    rw [mul_comm f, ← hf, sub_add_cancel]
  have hdeg : f.degree < (8 : Nat) := by
    have hlt : (f * fieldPoly m).degree < 8 + (8 : Nat) := by
      rw [mul_comm, ← hf, ← bitPoly_carryless_bytes, ← bitPoly_setWidth (k := 16) (by decide) (fieldMul a b m),
        CharTwo.sub_eq_add, ← bitPoly_xor]
      exact degree_bitPoly_lt _
    rw [degree_mul, degree_fieldPoly] at hlt
    exact lt_of_add_lt_add_right hlt
  obtain ⟨q, rfl⟩ := exists_bitPoly_eq hdeg
  refine ⟨q, bitPoly_injective ?_⟩
  have hq : (q.setWidth 16).toNat < 2 ^ 8 := by rw [BitVec.toNat_setWidth_of_le (by decide)]; exact q.isLt
  have hmod : ((0x100 : BitVec 16) ||| m.setWidth 16).toNat < 2 ^ 9 := by
    rw [BitVec.toNat_or, BitVec.toNat_setWidth_of_le (by decide)]
    exact Nat.or_lt_two_pow (by decide) (m.isLt.trans (by decide))
  rw [bitPoly_xor, bitPoly_carryless hq hmod, bitPoly_carryless_bytes, bitPoly_setWidth (by decide),
    bitPoly_setWidth (by decide), hprod]
  exact congrArg (bitPoly q * · + _) (bitPoly_leading_or (n := 16) (by decide) m).symm

end Mul

/-! The list of irreducible moduli (R87) -/

/-- R87: the list holds the bytes `IsIrreducible` accepts. -/
theorem mem_irreducibleList_iff : ∀ p : Byte, p ∈ irreducibleList ↔ isIrreducible p = true := by decide +kernel

theorem irreducibleList_ascending : irreducibleList.Pairwise fun p q => p.toNat < q.toNat := by decide

theorem exec_gfirr_eq_one_iff (p : Byte) (s : State) :
    exec (.gfirr p) s = .next { s with err := 0x00, res := 0x01 } ↔ isIrreducible p = true := by
  rw [exec_gfirr]
  cases isIrreducible p with
  | true => exact iff_of_true rfl rfl
  | false =>
    refine iff_of_false (fun h => ?_) Bool.false_ne_true
    have hres : (0x00 : Byte) = 0x01 := congrArg State.res (Host.Outcome.next.inj h)
    exact absurd hres (by decide)

theorem raises_gfirrn_of_ge {k : Byte} (hk : 30 ≤ k.toNat) (s : State) : Raises (.gfirrn k) s ErrorName.operand.code := by
  have hl : irreducibleList[k.toNat]? = none := List.getElem?_eq_none hk
  rw [raises_iff, exec, execGfirrn, hl]

theorem exec_gfirrn_of_lt {k : Byte} (hk : k.toNat < irreducibleList.length) (s : State) :
    exec (.gfirrn k) s = .next { s with err := 0x00, res := irreducibleList[k.toNat] } := by
  rw [exec, execGfirrn, List.getElem?_eq_getElem hk]
  rfl

/-! The round constants (R120) -/

theorem rcon_succ (m : Byte) {j : Nat} (hj : 1 ≤ j) : rcon m (j + 1) = fieldMul (rcon m j) 0x02 m := by
  obtain ⟨n, rfl⟩ := Nat.exists_eq_add_of_le' hj
  rfl

/-- R120: under `0x1B` the 51st double of 1 is 1. -/
theorem rconSucc_period : rconSucc 0x1B 51 = 0x01 := by decide +kernel

theorem rconSucc_add_period (n : Nat) : rconSucc 0x1B (n + 51) = rconSucc 0x1B n := by
  induction n with
  | zero => exact rconSucc_period
  | succ n ih => exact congrArg (fieldMul · 0x02 0x1B) ih

theorem rcon_add_period {j : Nat} (hj : 1 ≤ j) : rcon 0x1B (j + 51) = rcon 0x1B j := by
  obtain ⟨n, rfl⟩ := Nat.exists_eq_add_of_le' hj
  exact rconSucc_add_period n

end Sys2Proof.Machine

namespace Sys2Proof.Proofs

open Sys2Proof.Machine

/-- Settles O9: `Mul` is the product in the quotient by `x^8 + m`. -/
theorem gfmulAnswersProductModulo : Obligations.GfmulAnswersProductModulo := by
  unfold Obligations.GfmulAnswersProductModulo
  intro a b m s
  obtain ⟨q, hq⟩ := exists_carryless_eq m a b
  exact ⟨q, fieldMul a b m, rfl, hq⟩

/-- Settles O10: bytes are distinct residues modulo `x^8 + m`, so `Mul` and `Add` obey the laws of a commutative ring. -/
theorem mulIsCommutativeRing : Obligations.MulIsCommutativeRing := by
  unfold Obligations.MulIsCommutativeRing
  intro a b c m
  refine ⟨fieldMul_comm m a b, fieldMul_assoc m a b c, fieldMul_xor m a b c, fieldMul_zero m a, ?_, fieldMul_one m a, ?_,
    (fieldMul_two m a).trans (xtime_eq_xor m a)⟩
  · rw [fieldMul_comm, fieldMul_zero]
  · rw [fieldMul_comm, fieldMul_one]

/-- Settles O13: the list is ascending and holds exactly the bytes `IsIrreducible` accepts. -/
theorem gfirrnEnumeratesIrreducibles : Obligations.GfirrnEnumeratesIrreducibles := by
  unfold Obligations.GfirrnEnumeratesIrreducibles
  intro s
  have answer {k p : Byte} (hk : k.toNat < 30) (h : exec (.gfirrn k) s = .next { s with err := 0x00, res := p }) :
      p = irreducibleList[k.toNat]'hk :=
    congrArg State.res (Host.Outcome.next.inj (h.symm.trans (exec_gfirrn_of_lt hk s)))
  refine ⟨fun k hk => raises_gfirrn_of_ge hk s, fun k hk => ?sound, fun j k p q hjk hk hp hq => ?rising, fun p hp => ?complete⟩
  case sound =>
    refine ⟨_, exec_gfirrn_of_lt hk s, ?_⟩
    rw [exec_gfirr_eq_one_iff, ← mem_irreducibleList_iff]
    exact List.getElem_mem hk
  case rising =>
    rw [answer (hjk.trans hk) hp, answer hk hq]
    exact List.pairwise_iff_getElem.mp irreducibleList_ascending _ _ _ _ hjk
  case complete =>
    rw [exec_gfirr_eq_one_iff, ← mem_irreducibleList_iff] at hp
    obtain ⟨n, hn, rfl⟩ := List.getElem_of_mem hp
    have hlt : n < 30 := hn
    have hval : (BitVec.ofNat 8 n).toNat = n := Nat.mod_eq_of_lt (hlt.trans (by decide))
    refine ⟨BitVec.ofNat 8 n, hval.trans_lt hlt, ?_⟩
    rw [exec_gfirrn_of_lt (hval.trans_lt hn)]
    simp only [hval]

/-- Settles O17: the forward table of an irreducible modulus is a permutation, and `Inv` keeps 0 and 1. -/
theorem tablesAreMutualInverses : Obligations.TablesAreMutualInverses := by
  unfold Obligations.TablesAreMutualInverses
  intro s htables hv
  obtain ⟨hm, hf, hg⟩ := htables hv
  have hbij := lookup_forwardTable_bijective hm
  rw [hg, hf]
  refine ⟨fun x => ⟨lookup_inverseTable_lookup hbij.injective x, lookup_lookup_inverseTable hbij x⟩, ?_, ?_⟩
  · rw [lookup_forwardTable, fieldInv_zero]
    decide
  · rw [lookup_forwardTable, fieldInv_one]
    decide

/-- Settles O19: the constants are the powers of `x` under `0x1B`, and the 51st is 1. -/
theorem rconAnswersByDoubling : Obligations.RconAnswersByDoubling := by
  unfold Obligations.RconAnswersByDoubling
  intro s
  have ne_zero {j : Byte} (hj : 1 ≤ j.toNat) : j ≠ 0 := by rintro rfl; exact absurd hj (by decide)
  refine ⟨rfl, exec_rcon_of_ne_zero (by decide) s, fun j hj hlt => ?double, fun j hj hlt => ?period⟩
  case double =>
    have hnext : (j + 1).toNat = j.toNat + 1 := by bv_omega
    refine ⟨_, exec_rcon_of_ne_zero (ne_zero hj) s, ?_⟩
    rw [exec_rcon_of_ne_zero (ne_zero (by omega)), hnext, rcon_succ _ hj]
    rfl
  case period =>
    have hnext : (j + 51).toNat = j.toNat + 51 := by bv_omega
    rw [exec_rcon_of_ne_zero (ne_zero hj), exec_rcon_of_ne_zero (ne_zero (by omega)), hnext, canonicalModulus,
      rcon_add_period hj]

end Sys2Proof.Proofs

/-! PROOFS. Block core (`43_block_core.md` rules R140 to R151) and the words beyond the schedule (`42_key_expansion.md` rule
R125). The steps of the round by their entries and with their inverses, the rounds of `EncryptBlock` and `DecryptBlock` one
after another, and the two block commands in a row. -/

namespace Sys2Proof.Machine

/-! The steps by their entries (R140 to R148) -/

section Entries

variable {nb : WordCount} {r c : Nat} (hr : r < 4) (hc : c < nb.toNat)
include hr hc

theorem cell_load (x : Bytes (blockBytes nb)) : cell (load x) r c = byteAt x (r + 4 * c) := by
  have hlt : r + 4 * c < blockBytes nb := by unfold blockBytes; omega
  rw [load, cell_matrixOf _ hr hc, byteAt_lt _ _ hlt]

theorem byteAt_store (s : Matrix nb) : byteAt (store s) (r + 4 * c) = cell s r c := by
  rw [← cell_load hr hc, load_store]

theorem cell_subBytes (t : SBox) (s : Matrix nb) : cell (subBytes t s) r c = lookup t (cell s r c) := by
  rw [subBytes, cell_matrixOf _ hr hc, cell_eq_getElem s hr hc]
  rfl

theorem cell_shiftRows (s : Matrix nb) : cell (shiftRows s) r c = cell s r ((c + rowShift nb r) % nb.toNat) := by
  have hc' : (c + rowShift nb r) % nb.toNat < nb.toNat := Nat.mod_lt _ (Nat.zero_lt_of_lt hc)
  rw [shiftRows, cell_matrixOf _ hr hc, cell_eq_getElem s hr hc']
  simp only [columnOn, shiftAmount_eq_rowShift]
  rfl

theorem cell_invShiftRows (s : Matrix nb) :
    cell (invShiftRows s) r c = cell s r ((c + (nb.toNat - rowShift nb r)) % nb.toNat) := by
  have hc' : (c + (nb.toNat - rowShift nb r)) % nb.toNat < nb.toNat := Nat.mod_lt _ (Nat.zero_lt_of_lt hc)
  rw [invShiftRows, cell_matrixOf _ hr hc, cell_eq_getElem s hr hc']
  simp only [columnOn, shiftAmount_eq_rowShift, Nat.add_mod_mod]
  rfl

theorem cell_addRoundKey (w : Schedule) (round : Nat) (s : Matrix nb) : cell (addRoundKey w round s) r c =
    cell s r c ^^^ byteAt (wordAt w (round * nb.toNat + c)) r := by
  rw [addRoundKey, cell_matrixOf _ hr hc, cell_eq_getElem s hr hc, byteAt_lt _ _ hr]
  rfl

theorem cell_mixColumns (first : Bytes 4) (m : Byte) (s : Matrix nb) : cell (mixColumns first m s) r c =
    fieldMul (circulant first ⟨r, hr⟩ 0) (cell s 0 c) m ^^^ fieldMul (circulant first ⟨r, hr⟩ 1) (cell s 1 c) m
    ^^^ fieldMul (circulant first ⟨r, hr⟩ 2) (cell s 2 c) m ^^^ fieldMul (circulant first ⟨r, hr⟩ 3) (cell s 3 c) m := by
  rw [mixColumns, cell_matrixOf _ hr hc, mixRow, cell_eq_getElem s (by decide) hc, cell_eq_getElem s (by decide) hc,
    cell_eq_getElem s (by decide) hc, cell_eq_getElem s (by decide) hc]
  rfl

/-- R146: the circulant matrix is the one printed; a row uses the four bytes of the column alone. -/
theorem cell_mixColumns_mixFirst {v : Nat → Byte} {s : Matrix nb} (hv : ∀ k, k < 4 → v k = cell s k c) :
    cell (mixColumns mixFirst 0x1B s) r c = mixedByte r v := by
  rw [cell_mixColumns hr hc, ← hv 0 (by decide), ← hv 1 (by decide), ← hv 2 (by decide), ← hv 3 (by decide)]
  interval_cases r <;> rfl

/-- R147. -/
theorem cell_mixColumns_invMixFirst {v : Nat → Byte} {s : Matrix nb} (hv : ∀ k, k < 4 → v k = cell s k c) :
    cell (mixColumns invMixFirst 0x1B s) r c = unmixedByte r v := by
  rw [cell_mixColumns hr hc, ← hv 0 (by decide), ← hv 1 (by decide), ← hv 2 (by decide), ← hv 3 (by decide)]
  interval_cases r <;> rfl

end Entries

/-! The steps and their inverses (R140 to R148) -/

section Inverses

variable {nb : WordCount}

theorem matrix_ext {s t : Matrix nb} (h : ∀ r c, r < 4 → c < nb.toNat → cell s r c = cell t r c) : s = t := by
  ext c hc r hr : 2
  rw [← cell_eq_getElem s hr hc, ← cell_eq_getElem t hr hc, h r c hr hc]

theorem rowShift_le {r : Nat} (hr : r < 4) : rowShift nb r ≤ nb.toNat := by
  cases nb <;> interval_cases r <;> decide

/-- R145: the two rotations of a row undo each other. -/
theorem invShiftRows_shiftRows (s : Matrix nb) : invShiftRows (shiftRows s) = s := by
  refine matrix_ext fun r c hr hc => ?_
  have hsum : c + (nb.toNat - rowShift nb r) + rowShift nb r = c + nb.toNat := by
    have := rowShift_le (nb := nb) hr
    omega
  rw [cell_invShiftRows hr hc, cell_shiftRows hr (Nat.mod_lt _ (Nat.zero_lt_of_lt hc)), Nat.mod_add_mod, hsum,
    Nat.add_mod_right, Nat.mod_eq_of_lt hc]

theorem shiftRows_invShiftRows (s : Matrix nb) : shiftRows (invShiftRows s) = s := by
  refine matrix_ext fun r c hr hc => ?_
  have hsum : c + rowShift nb r + (nb.toNat - rowShift nb r) = c + nb.toNat := by
    have := rowShift_le (nb := nb) hr
    omega
  rw [cell_shiftRows hr hc, cell_invShiftRows hr (Nat.mod_lt _ (Nat.zero_lt_of_lt hc)), Nat.mod_add_mod, hsum,
    Nat.add_mod_right, Nat.mod_eq_of_lt hc]

theorem subBytes_subBytes {t f : SBox} (h : ∀ x, lookup t (lookup f x) = x) (s : Matrix nb) :
    subBytes t (subBytes f s) = s :=
  matrix_ext fun r c hr hc => by rw [cell_subBytes hr hc, cell_subBytes hr hc, h]

theorem addRoundKey_addRoundKey (w : Schedule) (r : Nat) (s : Matrix nb) : addRoundKey w r (addRoundKey w r s) = s :=
  matrix_ext fun row c hr hc => by
    rw [cell_addRoundKey hr hc, cell_addRoundKey hr hc, BitVec.xor_assoc, BitVec.xor_self, BitVec.xor_zero]

/-- A row of a circulant matrix times a column, in the quotient by `x^8 + m`. -/
theorem residue_mixRow (first col : Bytes 4) (m : Byte) (r : Fin 4) : residue m (mixRow first m col r) =
    ∑ k : Fin 4, residue m (circulant first r k) * residue m col[k] := by
  simp only [mixRow, residue_xor, residue_fieldMul, Fin.sum_univ_four]
  rfl

/-- The column `j` of a circulant matrix. -/
def circulantColumn (first : Bytes 4) (j : Fin 4) : Bytes 4 := Vector.ofFn fun k => circulant first k j

/-- Where the product of two circulant matrices is the identity, multiplying a column by one and then the other gives it
back. -/
theorem mixRow_mixRow {first second : Bytes 4} {m : Byte}
    (h : ∀ r j, mixRow first m (circulantColumn second j) r = if r = j then 1 else 0) (col : Bytes 4) (r : Fin 4) :
    mixRow first m (Vector.ofFn fun k => mixRow second m col k) r = col[r] := by
  have hentry (j : Fin 4) : ∑ k : Fin 4, residue m (circulant first r k) * residue m (circulant second k j) =
      if r = j then 1 else 0 := by
    have hj := congrArg (residue m) (h r j)
    rw [residue_mixRow] at hj
    simp only [circulantColumn, Fin.getElem_fin, Vector.getElem_ofFn, Fin.eta] at hj
    rw [hj, apply_ite (residue m)]
    exact if_congr Iff.rfl (residue_one m) (residue_zero m)
  refine residue_injective m ?_
  calc residue m (mixRow first m (Vector.ofFn fun k => mixRow second m col k) r)
      = ∑ k : Fin 4, ∑ j : Fin 4, residue m (circulant first r k) * residue m (circulant second k j) * residue m col[j] := by
        simp [residue_mixRow, Finset.mul_sum, mul_assoc]
    _ = ∑ j : Fin 4, (∑ k : Fin 4, residue m (circulant first r k) * residue m (circulant second k j)) * residue m col[j] := by
        rw [Finset.sum_comm]
        simp only [Finset.sum_mul]
    _ = residue m col[r] := by simp only [hentry, ite_mul, one_mul, zero_mul, Finset.sum_ite_eq, Finset.mem_univ, if_true]

theorem mixColumns_mixColumns {first second : Bytes 4} {m : Byte}
    (h : ∀ r j, mixRow first m (circulantColumn second j) r = if r = j then 1 else 0) (s : Matrix nb) :
    mixColumns first m (mixColumns second m s) = s := by
  ext c hc r hr : 2
  have hcol : (mixColumns second m s)[c] = Vector.ofFn fun k => mixRow second m s[c] k := by simp [mixColumns, matrixOf]
  rw [mixColumns, matrixOf_getElem _ c r hc hr, Fin.getElem_fin, hcol]
  exact mixRow_mixRow h s[c] ⟨r, hr⟩

/-- R147: the two printed matrices are inverse to each other under `0x1B`. -/
theorem invMix_mix (r j : Fin 4) : mixRow invMixFirst 0x1B (circulantColumn mixFirst j) r = if r = j then 1 else 0 := by
  revert r j; decide +kernel

theorem mix_invMix (r j : Fin 4) : mixRow mixFirst 0x1B (circulantColumn invMixFirst j) r = if r = j then 1 else 0 := by
  revert r j; decide +kernel

end Inverses

/-! The rounds one after another (R149 to R151) -/

/-- Folding back over the rounds in reverse order undoes folding over them. -/
theorem foldl_reverse_foldl {α β : Type} {f g : α → β → α} (h : ∀ s r, g (f s r) r = s) (l : List β) (s : α) :
    l.reverse.foldl g (l.foldl f s) = s := by
  induction l generalizing s with
  | nil => rfl
  | cons r l ih => rw [List.reverse_cons, List.foldl_append, List.foldl_cons, List.foldl_nil, List.foldl_cons, ih, h]

section Blocks

variable {nb : WordCount} {f t : SBox} (w : Schedule)

theorem decryptRound_encryptRound (h : ∀ x, lookup t (lookup f x) = x) (s : Matrix nb) (r : Nat) :
    decryptRound w t 0x1B (encryptRound w f 0x1B s r) r = s := by
  rw [decryptRound, encryptRound, addRoundKey_addRoundKey, mixColumns_mixColumns invMix_mix, invShiftRows_shiftRows,
    subBytes_subBytes h]

theorem encryptRound_decryptRound (h : ∀ x, lookup f (lookup t x) = x) (s : Matrix nb) (r : Nat) :
    encryptRound w f 0x1B (decryptRound w t 0x1B s r) r = s := by
  rw [decryptRound, encryptRound, subBytes_subBytes h, shiftRows_invShiftRows, mixColumns_mixColumns mix_invMix,
    addRoundKey_addRoundKey]

theorem decryptBlock_encryptBlock (h : ∀ x, lookup t (lookup f x) = x) (nr : RoundCount) (x : Bytes (blockBytes nb)) :
    decryptBlock nb nr w t 0x1B (encryptBlock nb nr w f 0x1B x) = x := by
  rw [decryptBlock, encryptBlock, load_store, addRoundKey_addRoundKey, invShiftRows_shiftRows, subBytes_subBytes h,
    foldl_reverse_foldl (decryptRound_encryptRound w h), addRoundKey_addRoundKey, store_load]

theorem encryptBlock_decryptBlock (h : ∀ x, lookup f (lookup t x) = x) (nr : RoundCount) (y : Bytes (blockBytes nb)) :
    encryptBlock nb nr w f 0x1B (decryptBlock nb nr w t 0x1B y) = y := by
  have hfold := foldl_reverse_foldl (encryptRound_decryptRound (nb := nb) w h) (List.range' 1 (nr.toNat - 1)).reverse
  rw [List.reverse_reverse] at hfold
  rw [encryptBlock, decryptBlock, load_store, addRoundKey_addRoundKey, hfold, subBytes_subBytes h,
    shiftRows_invShiftRows, addRoundKey_addRoundKey, store_load]

end Blocks

/-- The two tables of a state undo each other, where they are built and current (R109). -/
theorem State.lookup_lookup {s : State} (htables : s.TablesCurrent) (hv : s.sbValid = true) :
    (∀ x, lookup s.sbi (lookup s.sbf x) = x) ∧ ∀ x, lookup s.sbf (lookup s.sbi x) = x := by
  obtain ⟨hinv, -⟩ := Proofs.tablesAreMutualInverses s htables hv
  exact ⟨fun x => (hinv x).1, fun x => (hinv x).2⟩

theorem State.decrypt_encrypt {s : State} (htables : s.TablesCurrent) (hv : s.sbValid = true)
    (x : Bytes (blockBytes s.nb)) : s.decrypt (s.encrypt x) = x :=
  decryptBlock_encryptBlock s.w (State.lookup_lookup htables hv).1 s.nr x

theorem State.encrypt_decrypt {s : State} (htables : s.TablesCurrent) (hv : s.sbValid = true)
    (y : Bytes (blockBytes s.nb)) : s.encrypt (s.decrypt y) = y :=
  encryptBlock_decryptBlock s.w (State.lookup_lookup htables hv).2 s.nr y

/-! A block command on what another left in `DOUT` (R152, R153) -/

section InARow

variable {s : State}

theorem blockBytes_byte (nb : WordCount) : (BitVec.ofNat 8 (blockBytes nb)).toNat = blockBytes nb := by cases nb <;> rfl

/-- What is put into a buffer from its first byte on stands there. -/
theorem State.byte_setBytes_toList (s : State) (b : Buffer) {n k : Nat} (x : Bytes n) (hn : n ≤ bufferSize) (hk : k < n) :
    (s.setBytes b 0 x.toList).byte b k = x[k] := by
  rw [State.byte_setBytes _ _ _ _ _ _ (by simpa using hn) (hk.trans_le hn),
    dif_pos ⟨rfl, Nat.zero_le k, by simpa using hk⟩]
  rfl

/-- R20: a block put into `DIN` is the input block. -/
theorem State.inputBlock_setBytes (x : Bytes (blockBytes s.nb)) : (s.setBytes .din 0 x.toList).inputBlock = x := by
  ext k hk : 1
  exact (State.bytes_getElem _ _ _ _ hk).trans (State.byte_setBytes_toList s .din x (blockBytes_bounds s.nb).2 hk)

theorem State.bytes_setDout (y : Bytes (blockBytes s.nb)) : (s.setDout y).bytes .dout (blockBytes s.nb) = y := by
  ext k hk : 1
  rw [State.bytes_getElem, State.byte_setDout_of_lt s y (blockBytes_bounds s.nb).2 hk]

/-- What a block command leaves once it has written `y` to `DOUT` and the host has put `y` from there into `DIN`. -/
def State.fedBack (s : State) (y : Bytes (blockBytes s.nb)) : State :=
  ((s.setDout y).answer 0x00).setBytes .din 0 (((s.setDout y).answer 0x00).bytes .dout (blockBytes s.nb)).toList

theorem State.inputBlock_fedBack (y : Bytes (blockBytes s.nb)) : (s.fedBack y).inputBlock = y :=
  (State.inputBlock_setBytes (s := (s.setDout y).answer 0x00) _).trans (State.bytes_setDout y)

theorem State.blockCheck_blockBytes (hc : s.cfgValid = true) (hk : s.ksValid = true) :
    s.blockCheck (BitVec.ofNat 8 (blockBytes s.nb)) = none :=
  State.blockCheck_none.mpr ⟨hc, hk, blockBytes_byte s.nb⟩

theorem exec_encb_fedBack (hc : s.cfgValid = true) (hk : s.ksValid = true) (y : Bytes (blockBytes s.nb)) :
    exec (.encb (BitVec.ofNat 8 (blockBytes s.nb))) (s.fedBack y) =
      .next (((s.fedBack y).setDout (s.encrypt y)).answer 0x00) := by
  refine (exec_encb_of_blockCheck (State.blockCheck_blockBytes (s := s.fedBack y) hc hk)).trans ?_
  rw [s.inputBlock_fedBack]
  rfl

theorem exec_decb_fedBack (hc : s.cfgValid = true) (hk : s.ksValid = true) (y : Bytes (blockBytes s.nb)) :
    exec (.decb (BitVec.ofNat 8 (blockBytes s.nb))) (s.fedBack y) =
      .next (((s.fedBack y).setDout (s.decrypt y)).answer 0x00) := by
  refine (exec_decb_of_blockCheck (State.blockCheck_blockBytes (s := s.fedBack y) hc hk)).trans ?_
  rw [s.inputBlock_fedBack]
  rfl

/-- The input block written to `DOUT` of any state stands there byte by byte. -/
theorem State.byte_setDout_inputBlock (u : State) {k : Nat} (hk : k < blockBytes s.nb) :
    (u.setDout s.inputBlock).byte .dout k = s.byte .din k := by
  rw [State.byte_setDout_of_lt u _ (blockBytes_bounds s.nb).2 hk]
  exact State.bytes_getElem s .din _ k hk

end InARow

/-! The rounds of `EncryptBlock` and `DecryptBlock` as matrices (R149, R150) -/

/-- The matrix of `EncryptBlock` after round `i`, one of the rounds 0 .. NR-1. -/
def State.encryptState (s : State) (x : Bytes (blockBytes s.nb)) (i : Nat) : Matrix s.nb :=
  (List.range' 1 i).foldl (encryptRound s.w s.sbf 0x1B) (addRoundKey s.w 0 (load x))

theorem State.encryptState_succ (s : State) (x : Bytes (blockBytes s.nb)) (i : Nat) :
    s.encryptState x (i + 1) = encryptRound s.w s.sbf 0x1B (s.encryptState x i) (i + 1) := by
  rw [State.encryptState, List.range'_1_concat, List.foldl_append, Nat.add_comm 1 i]
  rfl

/-- The matrix of `EncryptBlock` after round `i`, the last round, which leaves MixColumns out, among them. -/
def State.encryptRounds (s : State) (x : Bytes (blockBytes s.nb)) (i : Nat) : Matrix s.nb :=
  if i < s.nr.toNat then s.encryptState x i
  else addRoundKey s.w s.nr.toNat (shiftRows (subBytes s.sbf (s.encryptState x (s.nr.toNat - 1))))

theorem State.encryptRounds_of_lt {s : State} (x : Bytes (blockBytes s.nb)) {i : Nat} (h : i < s.nr.toNat) :
    s.encryptRounds x i = s.encryptState x i := if_pos h

theorem State.encryptRounds_last (s : State) (x : Bytes (blockBytes s.nb)) : s.encryptRounds x s.nr.toNat =
    addRoundKey s.w s.nr.toNat (shiftRows (subBytes s.sbf (s.encryptState x (s.nr.toNat - 1)))) :=
  if_neg (Nat.lt_irrefl _)

theorem State.encrypt_eq_store (s : State) (x : Bytes (blockBytes s.nb)) :
    s.encrypt x = store (s.encryptRounds x s.nr.toNat) := by
  rw [State.encryptRounds_last]
  rfl

theorem RoundCount.toNat_pos (nr : RoundCount) : 0 < nr.toNat := by cases nr <;> decide

theorem cell_shiftRows_subBytes {nb : WordCount} {r c : Nat} (hr : r < 4) (hc : c < nb.toNat) (f : SBox) (s : Matrix nb) :
    cell (shiftRows (subBytes f s)) r c = lookup f (cell s r ((c + rowShift nb r) % nb.toNat)) := by
  rw [cell_shiftRows hr hc, cell_subBytes hr (Nat.mod_lt _ (Nat.zero_lt_of_lt hc))]

theorem cell_subBytes_invShiftRows {nb : WordCount} {r c : Nat} (hr : r < 4) (hc : c < nb.toNat) (t : SBox) (s : Matrix nb) :
    cell (subBytes t (invShiftRows s)) r c = lookup t (cell s r ((c + (nb.toNat - rowShift nb r)) % nb.toNat)) := by
  rw [cell_subBytes hr hc, cell_invShiftRows hr hc]

/-- The matrix of `DecryptBlock` after round `i`, one of the rounds NR .. 1. -/
def State.decryptState (s : State) (y : Bytes (blockBytes s.nb)) (i : Nat) : Matrix s.nb :=
  (List.range' i (s.nr.toNat - i)).reverse.foldl (decryptRound s.w s.sbi 0x1B)
    (subBytes s.sbi (invShiftRows (addRoundKey s.w s.nr.toNat (load y))))

/-- The matrix of `DecryptBlock` in round `i` before InvShiftRows and InvSubBytes. -/
def State.decryptInput (s : State) (y : Bytes (blockBytes s.nb)) (i : Nat) : Matrix s.nb :=
  if i < s.nr.toNat then mixColumns invMixFirst 0x1B (addRoundKey s.w i (s.decryptState y (i + 1)))
  else addRoundKey s.w s.nr.toNat (load y)

theorem State.decryptInput_of_lt {s : State} (y : Bytes (blockBytes s.nb)) {i : Nat} (h : i < s.nr.toNat) :
    s.decryptInput y i = mixColumns invMixFirst 0x1B (addRoundKey s.w i (s.decryptState y (i + 1))) := if_pos h

theorem State.decryptInput_last (s : State) (y : Bytes (blockBytes s.nb)) :
    s.decryptInput y s.nr.toNat = addRoundKey s.w s.nr.toNat (load y) := if_neg (Nat.lt_irrefl _)

theorem State.decryptState_eq {s : State} (y : Bytes (blockBytes s.nb)) {i : Nat} (h : i ≤ s.nr.toNat) :
    s.decryptState y i = subBytes s.sbi (invShiftRows (s.decryptInput y i)) := by
  obtain hlt | rfl := Nat.lt_or_eq_of_le h
  · have hlen : s.nr.toNat - i = s.nr.toNat - (i + 1) + 1 := by omega
    rw [State.decryptInput_of_lt y hlt, State.decryptState, hlen, List.range'_succ, List.reverse_cons, List.foldl_append]
    rfl
  · rw [State.decryptInput_last, State.decryptState, Nat.sub_self]
    rfl

theorem State.decrypt_eq_store (s : State) (y : Bytes (blockBytes s.nb)) :
    s.decrypt y = store (addRoundKey s.w 0 (s.decryptState y 1)) := rfl

end Sys2Proof.Machine

namespace Sys2Proof.Proofs

open Sys2Proof.Machine

/-- Settles O54: each step is the matrix of the entries the statement names. -/
theorem roundStepsByEntries : Obligations.RoundStepsByEntries := by
  unfold Obligations.RoundStepsByEntries
  intro nb s x f w round r c hr hc
  exact ⟨cell_load hr hc x, byteAt_store hr hc s, cell_subBytes hr hc f s, cell_shiftRows hr hc s, cell_invShiftRows hr hc s,
    cell_addRoundKey hr hc w round s,
    fun v hv => ⟨cell_mixColumns_mixFirst hr hc fun k _ => hv k, cell_mixColumns_invMixFirst hr hc fun k _ => hv k⟩⟩

/-- Settles O22: the rotations of a row add up to the block size, and the printed matrices are inverse under `0x1B`. -/
theorem roundStepsAreInvertible : Obligations.RoundStepsAreInvertible := by
  unfold Obligations.RoundStepsAreInvertible
  intro nb s x w r
  refine ⟨store_load x, invShiftRows_shiftRows s, shiftRows_invShiftRows s, mixColumns_mixColumns invMix_mix s,
    mixColumns_mixColumns mix_invMix s, addRoundKey_addRoundKey w r s, fun st htables hv => ?_⟩
  obtain ⟨hinv, hfwd⟩ := State.lookup_lookup htables hv
  exact ⟨subBytes_subBytes hinv s, subBytes_subBytes hfwd s⟩

/-- Settles O23: each round undoes its counterpart, so the rounds in reverse order undo the rounds. -/
theorem blockRoundTrip : Obligations.BlockRoundTrip := by
  unfold Obligations.BlockRoundTrip
  intro s hc hk hv htables
  have hcheck := State.blockCheck_blockBytes hc hk
  refine ⟨⟨_, _, exec_encb_of_blockCheck hcheck, exec_decb_fedBack hc hk _, fun k hlt => ?_⟩,
    ⟨_, _, exec_decb_of_blockCheck hcheck, exec_encb_fedBack hc hk _, fun k hlt => ?_⟩⟩
  · rw [State.decrypt_encrypt htables hv]
    exact State.byte_setDout_inputBlock _ hlt
  · rw [State.encrypt_decrypt htables hv]
    exact State.byte_setDout_inputBlock _ hlt

/-- Settles O55: `g` and `h` are the entries of the matrices after a round and after its ShiftRows. -/
theorem encryptBlockFollowsTheRounds : Obligations.EncryptBlockFollowsTheRounds := by
  unfold Obligations.EncryptBlockFollowsTheRounds
  intro s x
  refine ⟨fun i => cell (s.encryptRounds x i), fun i => cell (shiftRows (subBytes s.sbf (s.encryptState x (i - 1)))),
    fun r c hr hc => ⟨?start, fun i h1 hi => ?sub, fun i h1 hi => ?round, ?last, ?store⟩⟩ <;> beta_reduce
  case start =>
    rw [State.encryptRounds_of_lt x s.nr.toNat_pos, State.encryptState, List.range'_zero, List.foldl_nil,
      cell_addRoundKey hr hc, cell_load hr hc]
    rfl
  case sub => rw [cell_shiftRows_subBytes hr hc, State.encryptRounds_of_lt x (by omega)]
  case round =>
    obtain ⟨j, rfl⟩ := Nat.exists_eq_add_of_le' h1
    rw [State.encryptRounds_of_lt x hi, State.encryptState_succ, encryptRound, cell_addRoundKey hr hc,
      cell_mixColumns_mixFirst hr hc (v := fun k => cell (shiftRows (subBytes s.sbf (s.encryptState x j))) k c)
        fun _ _ => rfl]
    rfl
  case last =>
    rw [State.encryptRounds_last, cell_addRoundKey hr hc]
    rfl
  case store => rw [State.encrypt_eq_store, byteAt_store hr hc]

/-- Settles O56: `h` holds the entries of the matrix after a round, `g` those before its InvShiftRows. -/
theorem decryptBlockFollowsTheRounds : Obligations.DecryptBlockFollowsTheRounds := by
  unfold Obligations.DecryptBlockFollowsTheRounds
  intro s y
  refine ⟨fun i => cell (s.decryptInput y i), fun i => cell (s.decryptState y i),
    fun r c hr hc => ⟨?start, fun i _ hi => ?sub, fun i h1 hi => ?round, ?store⟩⟩ <;> beta_reduce
  case start =>
    rw [State.decryptInput_last, cell_addRoundKey hr hc, cell_load hr hc]
    rfl
  case sub => rw [State.decryptState_eq y hi, cell_subBytes_invShiftRows hr hc]
  case round =>
    rw [State.decryptInput_of_lt y hi]
    exact cell_mixColumns_invMixFirst hr hc fun k hk => (cell_addRoundKey hk hc s.w i _).symm
  case store =>
    rw [State.decrypt_eq_store, byteAt_store hr hc, cell_addRoundKey hr hc]
    rfl

/-- Settles O57: the schedule is written word by word below its length. -/
theorem kexpKeepsTheWordsBeyond : Obligations.KexpKeepsTheWordsBeyond := by
  unfold Obligations.KexpKeepsTheWordsBeyond
  intro len s t h i hi
  obtain ⟨-, rfl⟩ | ⟨-, -, rfl⟩ | ⟨-, -, e, -, rfl⟩ | ⟨-, -, u, hu, rfl⟩ := execKexp_next h
  case inr.inr.inr =>
    have hnk : 1 ≤ u.nk.toNat := Nat.one_le_of_lt u.nk.toNat_bounds.1
    obtain ⟨-, hbeyond⟩ := keyExpand_spec u.nk.toNat (scheduleWords u.nb u.nr) (u.bytes .keybuf (keyBytes u.nk)) u.sbf
      (roundModulus u.modulus) u.w hnk (scheduleWords_le_store u.nb u.nr)
    obtain ⟨-, rfl⟩ | ⟨-, -, rfl⟩ := State.ensureSbox_ok hu
    · exact hbeyond i hi
    · exact hbeyond i hi
  all_goals rfl

end Sys2Proof.Proofs

/-! PROOFS. Modes, padding and reset (`44_modes_padding.md` rules R175 to R210, `70_reset_and_hazards.md` rule R280). Numbers
written big-endian, the two functions of the block index, a block through a mode and back, the tail and the padded block. -/

namespace Sys2Proof.Machine

/-! Numbers written in bytes, the highest first (R190, R193) -/

section BigEndian

/-- The number `m` bytes make, read big-endian. -/
def bigEndian (f : Nat → Byte) (m : Nat) : Nat := (List.range m).foldl (fun acc k => acc * 256 + (f k).toNat) 0

theorem bigEndian_succ (f : Nat → Byte) (m : Nat) : bigEndian f (m + 1) = bigEndian f m * 256 + (f m).toNat := by
  simp [bigEndian, List.range_succ]

theorem bigEndian_congr {f g : Nat → Byte} {m : Nat} (h : ∀ k < m, f k = g k) : bigEndian f m = bigEndian g m := by
  induction m with
  | zero => rfl
  | succ m ih => rw [bigEndian_succ, bigEndian_succ, ih fun k hk => h k (by omega), h m (by omega)]

theorem bigEndian_lt (f : Nat → Byte) (m : Nat) : bigEndian f m < 256 ^ m := by
  induction m with
  | zero => exact Nat.one_pos
  | succ m ih =>
    have := (f m).isLt
    rw [bigEndian_succ, pow_succ]
    omega

theorem bigEndian_eq_sum (f : Nat → Byte) (m : Nat) :
    ((List.range m).map fun k => (f k).toNat * 256 ^ (m - 1 - k)).sum = bigEndian f m := by
  induction m with
  | zero => rfl
  | succ m ih =>
    have hshift : ((List.range m).map fun k => (f k).toNat * 256 ^ (m - k)) =
        (List.range m).map fun k => (f k).toNat * 256 ^ (m - 1 - k) * 256 := by
      refine List.map_congr_left fun k hk => ?_
      have hk := List.mem_range.mp hk
      rw [mul_assoc, ← pow_succ, show m - 1 - k + 1 = m - k by omega]
    simp [List.range_succ, bigEndian_succ, hshift, List.sum_map_mul_right, ih]

/-- The `m` bytes of `v`, the highest first, make `v` modulo `256 ^ m`. -/
theorem bigEndian_digits (v m : Nat) : bigEndian (fun k => BitVec.ofNat 8 (v / 256 ^ (m - 1 - k))) m = v % 256 ^ m := by
  induction m generalizing v with
  | zero => simp [bigEndian, Nat.mod_one]
  | succ m ih =>
    have hshift : ∀ k < m, BitVec.ofNat 8 (v / 256 ^ (m - k)) = BitVec.ofNat 8 (v / 256 / 256 ^ (m - 1 - k)) := by
      intro k hk
      rw [Nat.div_div_eq_div_mul, ← pow_succ', show m - 1 - k + 1 = m - k by omega]
    rw [bigEndian_succ, Nat.add_sub_cancel, bigEndian_congr hshift, ih (v / 256), pow_succ', Nat.mod_mul]
    simp
    omega

end BigEndian

/-! The counter block and the seed of RandomDelta (R190, R193) -/

section BlockIndex

variable {n : Nat}

theorem counterByte_eq_digit (c : BitVec 64) (k : Nat) : counterByte c k = BitVec.ofNat 8 (c.toNat / 256 ^ (7 - k)) := by
  apply BitVec.eq_of_toNat_eq
  simp [counterByte, counterWeight, Config.counterOrder, Nat.shiftRight_eq_div_pow, pow_mul]

theorem counterOf_toNat (iv : Bytes n) : (counterOf iv).toNat = bigEndian (fun k => byteAt iv (n - 8 + k)) 8 := by
  have hsum : counterOf iv = BitVec.ofNat 64 (bigEndian (fun k => byteAt iv (n - 8 + k)) 8) :=
    congrArg (BitVec.ofNat 64) (bigEndian_eq_sum _ 8)
  rw [hsum, BitVec.toNat_ofNat]
  exact Nat.mod_eq_of_lt (bigEndian_lt _ 8)

theorem ctrBlock_getElem (iv : Bytes n) (i : BitVec 64) {j : Nat} (hj : j < n) :
    (ctrBlock iv i)[j] = if n - 8 ≤ j ∧ j < n - 8 + 8 then counterByte (counterOf iv + i) (j - (n - 8)) else iv[j] :=
  Vector.getElem_ofFn hj

/-- R190: the last 8 bytes of the counter block are the counter advanced by the index. -/
theorem byteAt_ctrBlock (h8 : 8 ≤ n) (iv : Bytes n) (i : BitVec 64) {k : Nat} (hk : k < 8) :
    byteAt (ctrBlock iv i) (n - 8 + k) = counterByte (counterOf iv + i) k := by
  rw [byteAt_lt _ _ (by omega), ctrBlock_getElem, if_pos (by omega), Nat.add_sub_cancel_left]

theorem bigEndian_ctrBlock (h8 : 8 ≤ n) (iv : Bytes n) (i : BitVec 64) :
    bigEndian (fun k => byteAt (ctrBlock iv i) (n - 8 + k)) 8 = (counterOf iv + i).toNat := by
  have hdigit (k : Nat) (hk : k < 8) :
      byteAt (ctrBlock iv i) (n - 8 + k) = BitVec.ofNat 8 ((counterOf iv + i).toNat / 256 ^ (8 - 1 - k)) :=
    (byteAt_ctrBlock h8 iv i hk).trans (counterByte_eq_digit _ k)
  rw [bigEndian_congr hdigit, bigEndian_digits]
  exact Nat.mod_eq_of_lt (counterOf iv + i).isLt

theorem deltaSeed_toNat (iv : Bytes n) (i : BitVec 64) :
    (deltaSeed iv i).toNat = bigEndian (fun k => byteAt iv (n - 4 + k)) 4 ^^^ i.toNat % 2 ^ 32 := by
  have hsum : deltaSeed iv i = BitVec.ofNat 32 (bigEndian (fun k => byteAt iv (n - 4 + k)) 4) ^^^ i.setWidth 32 :=
    congrArg (fun v => BitVec.ofNat 32 v ^^^ i.setWidth 32) (bigEndian_eq_sum _ 4)
  have hlt : bigEndian (fun k => byteAt iv (n - 4 + k)) 4 < 2 ^ 32 := bigEndian_lt _ 4
  rw [hsum, BitVec.toNat_xor, BitVec.toNat_ofNat, BitVec.toNat_setWidth, Nat.mod_eq_of_lt hlt]

end BlockIndex

/-! A block through a mode and back (R176 to R182) -/

section Block

variable {n : Nat} {e d : Bytes n → Bytes n}

theorem xorBytes_right_comm (x y z : Bytes n) : xorBytes (xorBytes x y) z = xorBytes (xorBytes x z) y := by
  ext k hk : 1
  simp only [xorBytes_getElem _ _ _ hk]
  ac_rfl

/-- Deciphering the output of a block from the feedback that was there before gives the block, and leaves the feedback that
enciphering it left. -/
theorem modeStep_modeStep (hde : ∀ x, d (e x) = x) (mode : Mode) (x : Bytes n) (fb : Feedback n) (i : BitVec 64) :
    modeStep mode true e d (modeStep mode false e d x fb i).1 fb i = (x, (modeStep mode false e d x fb i).2) := by
  cases mode
  case ecb => simp [modeStep, stepEcb, hde]
  case cbc => simp [modeStep, stepCbc, hde]
  case pcbc => simp [modeStep, stepPcbc, hde, xorBytes_right_comm _ fb.2 fb.1]
  case cfb => simp [modeStep, stepCfb]
  case ofb => simp [modeStep, stepOfb]
  case ctr => simp [modeStep, stepCtr]
  case randomDelta => simp [modeStep, stepDelta, hde]

theorem modeRun_modeRun (hde : ∀ x, d (e x) = x) (mode : Mode) (msg : List (Bytes n)) (fb : Feedback n) (i : BitVec 64) :
    modeRun mode true e d (modeRun mode false e d msg fb i).1 fb i = (msg, (modeRun mode false e d msg fb i).2) := by
  induction msg generalizing fb i with
  | nil => rfl
  | cons x rest ih => simp only [modeRun, modeStep_modeStep hde, ih]

/-- R205: the modes that encipher in parallel leave the feedback as it was. -/
theorem modeStep_feedback_of_parallelEncrypt {mode : Mode} (h : mode.parallelEncrypt = true) (x : Bytes n) (fb : Feedback n)
    (i : BitVec 64) : (modeStep mode false e d x fb i).2 = fb := by
  cases mode
  case ecb | ctr | randomDelta => rfl
  all_goals cases h

/-- R205: in the modes that decipher in parallel the feedback is made of the input alone. -/
theorem modeStep_feedback_of_parallelDecrypt {mode : Mode} (h : mode.parallelDecrypt = true) (e' d' : Bytes n → Bytes n)
    (x : Bytes n) (fb : Feedback n) (i : BitVec 64) :
    (modeStep mode true e d x fb i).2 = (modeStep mode true e' d' x fb i).2 := by
  cases mode
  case ecb | cbc | ctr | randomDelta => rfl
  all_goals cases h

end Block

/-! The short last block (R184) -/

section Tail

variable {s : State} {mode : Mode} {n : Byte} {k : Nat}

/-- What `MPART n` leaves in an open call with a keystream. -/
def State.afterTail (s : State) (mode : Mode) (n : Byte) : State :=
  State.answer n { s.setDout (s.tailBytes mode n.toNat) with blkcnt := s.blkcnt + 1, run := false }

theorem exec_mpart_afterTail (hc : s.cfgValid = true) (hr : s.run = true)
    (hm : (modeOf s.mode).filter Mode.hasKeystream = some mode) (h1 : 1 ≤ n.toNat) (hn : n.toNat < blockBytes s.nb) :
    exec (.mpart n) s = .next (s.afterTail mode n) := exec_mpart_of_legal hc hr hm h1 hn

theorem State.byte_afterTail (s : State) (mode : Mode) (hk : k < n.toNat) (hn : n.toNat < blockBytes s.nb) :
    (s.afterTail mode n).byte .dout k = s.byte .din k ^^^ (s.tailKeystream mode)[k] := by
  have hfit : n.toNat ≤ bufferSize := hn.le.trans (blockBytes_bounds s.nb).2
  exact (State.byte_setDout_of_lt s _ hfit hk).trans (State.tailBytes_getElem s mode hk (hk.trans hn))

/-- The keystream of the tail does not depend on the buffers. -/
theorem State.tailKeystream_setBytes (s : State) (mode : Mode) (b : Buffer) (i : Nat) (vs : List Byte) :
    (s.setBytes b i vs).tailKeystream mode = s.tailKeystream mode := by cases mode <;> rfl

/-- The tail, put into `DIN` of the state before, meets the same keystream. -/
theorem State.byte_afterTail_afterTail (s : State) (mode : Mode) (hk : k < n.toNat) (hn : n.toNat < blockBytes s.nb) :
    ((s.setBytes .din 0 ((s.afterTail mode n).bytes .dout n.toNat).toList).afterTail mode n).byte .dout k =
      s.byte .din k := by
  have hfit : n.toNat ≤ bufferSize := hn.le.trans (blockBytes_bounds s.nb).2
  refine (State.byte_afterTail (s.setBytes .din 0 _) mode hk hn).trans ?_
  rw [State.byte_setBytes_toList s .din _ hfit hk, State.bytes_getElem _ _ _ _ hk, s.byte_afterTail mode hk hn]
  refine (congrArg (fun v : Bytes (blockBytes s.nb) => _ ^^^ v[k]) (s.tailKeystream_setBytes mode .din 0 _)).trans ?_
  rw [BitVec.xor_assoc, BitVec.xor_self, BitVec.xor_zero]

end Tail

/-! The length a padded block reports (R196 to R204) -/

section PadLength

variable {p : Padding} {len draw size : Nat}

/-- R197 to R199: every scheme but Zeros ends in the length. -/
theorem getElem_padBytes_last (hp : p ≠ .zeros) (hk : len - 1 < (padBytes p len draw).length) :
    (padBytes p len draw)[len - 1] = BitVec.ofNat 8 len := by
  cases p
  case zeros => exact absurd rfl hp
  case pkcs7 => exact getElem_padBytes_pkcs7 hk
  case ansix923 => rw [getElem_padBytes_ansix923 hk, if_pos rfl]
  case iso10126 => exact getElem_padBytes_iso10126_last hk

/-- R202 to R204: a block that ends in the padding of a scheme that stores the length reports it. -/
theorem padLength_of_padBytes {block : Nat → Byte} (hp : p ≠ .zeros) (h1 : 1 ≤ len) (hsize : len ≤ size)
    (h256 : size < 256)
    (hblock : ∀ k (hk : k < (padBytes p len draw).length), block (size - len + k) = (padBytes p len draw)[k]) :
    padLength p size block = some len := by
  have hlength : (padBytes p len draw).length = len := padBytes_length p len draw h1
  have hlast : block (size - 1) = BitVec.ofNat 8 len := by
    rw [show size - 1 = size - len + (len - 1) by omega, hblock (len - 1) (by omega)]
    exact getElem_padBytes_last hp _
  have hlen : (block (size - 1)).toNat = len := by rw [hlast, BitVec.toNat_ofNat]; omega
  have hrange : 1 ≤ (block (size - 1)).toNat ∧ (block (size - 1)).toNat ≤ size := by omega
  cases p
  case zeros => exact absurd rfl hp
  case pkcs7 =>
    refine padLength_pkcs7_eq_some_iff.mpr ⟨hrange, fun k hlo hhi => ?_, hlen⟩
    rw [hlen] at hlo
    obtain ⟨j, rfl⟩ := Nat.exists_eq_add_of_le hlo
    rw [hblock j (by omega), hlast]
    exact getElem_padBytes_pkcs7 _
  case ansix923 =>
    refine padLength_ansix923_eq_some_iff.mpr ⟨hrange, fun k hlo hhi => ?_, hlen⟩
    rw [hlen] at hlo
    obtain ⟨j, rfl⟩ := Nat.exists_eq_add_of_le hlo
    rw [hblock j (by omega), getElem_padBytes_ansix923, if_neg (by omega)]
  case iso10126 => exact padLength_iso10126_eq_some_iff.mpr ⟨hrange, hlen⟩

/-- R195, R202 to R204: the padded block of `DIN`, put into `DOUT`, reports the length of its padding. -/
theorem State.padLength_padded (s : State) {n : Nat} (hp : p ≠ .zeros) (hn : n < blockBytes s.nb) (a : Byte) :
    padLength p (blockBytes s.nb) ((((s.padded p n).answer a).setBytes .dout 0
      (((s.padded p n).answer a).bytes .din (blockBytes s.nb)).toList).byte .dout) = some (blockBytes s.nb - n) := by
  have hfit : blockBytes s.nb ≤ bufferSize := (blockBytes_bounds s.nb).2
  have hlength := padBytes_length p (blockBytes s.nb - n) s.draws (by omega)
  refine padLength_of_padBytes (draw := s.draws) hp (by omega) (by omega) (hfit.trans_lt (by decide)) fun k hk => ?_
  have hkB : blockBytes s.nb - (blockBytes s.nb - n) + k < blockBytes s.nb := by omega
  rw [State.byte_setBytes_toList _ .dout _ hfit hkB, State.bytes_getElem _ _ _ _ hkB]
  obtain ⟨_, hbyte⟩ := s.byte_padded p (n := n) (j := blockBytes s.nb - (blockBytes s.nb - n) + k) (by omega) hkB
  refine hbyte.trans ?_
  congr 1
  omega

end PadLength

end Sys2Proof.Machine

namespace Sys2Proof.Proofs

open Sys2Proof.Machine

/-- Settles O27: no mode is recognised there. -/
theorem mblkStopsWithoutMode : Obligations.MblkStopsWithoutMode := by
  unfold Obligations.MblkStopsWithoutMode
  intro len s hc hr hlen hm
  simp [exec, execMblk, hc, hr, hlen, blockBytes, (modeOf_eq_none s.mode).mpr hm]

/-- Settles O29: both runs XOR the same keystream. -/
theorem tailRoundTrip : Obligations.TailRoundTrip := by
  unfold Obligations.TailRoundTrip
  intro n s hc hr hm h1 hn
  obtain ⟨mode, -, hkey⟩ := exists_keystreamMode hm
  exact ⟨_, _, exec_mpart_afterTail hc hr hkey h1 hn, exec_mpart_afterTail (s := s.setBytes .din 0 _) hc hr hkey h1 hn,
    fun j hj => s.byte_afterTail_afterTail mode hj hn⟩

/-- Settles O30: the bytes of the counter make the counter, and the counter is the last 8 bytes of the IV. -/
theorem counterBlockAddsTheIndex : Obligations.CounterBlockAddsTheIndex := by
  unfold Obligations.CounterBlockAddsTheIndex
  intro nb iv i
  have h8 : 8 ≤ blockBytes nb := le_trans (by decide) (blockBytes_bounds nb).1
  refine ⟨fun j hj hlt => ?_, ?_⟩
  · rw [ctrBlock_getElem iv i hj, if_neg (by omega)]
  · refine (bigEndian_ctrBlock h8 iv i).trans ?_
    rw [BitVec.toNat_add, counterOf_toNat]
    rfl

/-- Settles O31: the last 4 bytes of the IV make a number below 2^32. -/
theorem deltaSeedIsLastFourBytes : Obligations.DeltaSeedIsLastFourBytes := by
  unfold Obligations.DeltaSeedIsLastFourBytes
  intro nb iv i
  exact deltaSeed_toNat iv i

/-- Settles O34: each scheme that stores the length reports it, whatever the filler. -/
theorem unpadUndoesPad : Obligations.UnpadUndoesPad := by
  unfold Obligations.UnpadUndoesPad
  intro n s hc hx hm h1 h3 hn
  obtain ⟨mode, hmode, hs⟩ := State.paddingMode_of_padded hc hx hm
  obtain ⟨p, hp⟩ := exists_paddingOf h3
  have hne : p ≠ .zeros := by
    rintro rfl
    rw [paddingOf_eq_some_iff.mp hp] at h1
    exact absurd h1 (by decide)
  refine ⟨_, _, exec_pad_of_padded hmode hs hp hn,
    exec_unpad_of_padLength hmode hs hp (s.padLength_padded hne hn _), rfl, ?_⟩
  change BitVec.ofNat 8 (blockBytes s.nb - (blockBytes s.nb - n.toNat)) = n
  rw [Nat.sub_sub_self hn.le, BitVec.ofNat_toNat, BitVec.setWidth_eq]

/-- Settles O35: block by block, each leaves the two directions with the same feedback. -/
theorem messageRoundTrip : Obligations.MessageRoundTrip := by
  unfold Obligations.MessageRoundTrip
  intro n mode e d msg fb i hde
  exact modeRun_modeRun hde mode msg fb i

/-- Settles O36: mode by mode. -/
theorem parallelModesAreIndependent : Obligations.ParallelModesAreIndependent := by
  unfold Obligations.ParallelModesAreIndependent
  intro n mode e d e' d' x fb i
  exact ⟨fun h => modeStep_feedback_of_parallelEncrypt h x fb i,
    fun h => modeStep_feedback_of_parallelDecrypt h e' d' x fb i⟩

/-- Settles O41: the answer 0 of `RST` is what `ERR` and `RES` hold after reset. -/
theorem rstIsHardwareReset : Obligations.RstIsHardwareReset := by
  unfold Obligations.RstIsHardwareReset
  refine fun s => ⟨rfl, fun rest hs => ?_⟩
  have hstep : step s = .next (State.toReset { s with host := rest }) := by simp [step, State.fetch, hs]
  exact ⟨hstep, hstep⟩

end Sys2Proof.Proofs

/-! PROOFS. Completion and effect of every command (`10_state.md` rule R28, `60_exceptions.md` rules R252 to R256). What a
command that raises no error does to the state is said once, by the kinds of effect there are; the invariant is kept by
each kind, by `raise` and by reset, and a command completes in every state of the invariant. -/

namespace Sys2Proof.Machine

/-! The kinds of effect -/

/-- R105: the state with the tables built, as `EnsureSbox` leaves it. -/
def State.withTables (s : State) (f g : SBox) : State := { s with sbf := f, sbi := g, sbValid := true }

/-- R125: the state with the key expanded and no call open. -/
def State.withSchedule (s : State) : State := { s with w := s.expandKey, ksValid := true, run := false }

theorem State.ensureSbox_withTables {s u : State} (hu : s.ensureSbox = .ok u) : ∃ f g, u = s.withTables f g := by
  obtain ⟨hv, rfl⟩ | ⟨-, -, rfl⟩ := State.ensureSbox_ok hu
  · exact ⟨u.sbf, u.sbi, by rw [State.withTables, ← hv]⟩
  · exact ⟨_, _, rfl⟩

/-- What the commands that raise no error do to the state before them, with the checks they have then passed. -/
inductive Effect (s : State) : Instr → State → Prop where
  /-- `RES` alone is written: the field commands, `GFIRRN`, `RCON`, `RDB`, `RDST`, `UNPAD`, and `PAD` in a stream-style
  mode (R195). -/
  | answer (i : Instr) (v : Byte) : Effect s i (s.answer v)
  /-- R101. -/
  | configure (nk nb m : Byte) (k b : WordCount) :
      Effect s (.cfg nk nb m) ((s.configure k b m).answer (rounds k b).byte)
  /-- R106 to R108. -/
  | build {i : Instr} {f g : SBox} (hi : i = .sbgen ∨ (∃ x, i = .sbfwd x) ∨ ∃ x, i = .sbinv x)
      (hc : s.cfgValid = true) (hu : s.ensureSbox = .ok (s.withTables f g)) (v : Byte) :
      Effect s i ((s.withTables f g).answer v)
  /-- R125. -/
  | expand {f g : SBox} (len : Byte) (hc : s.cfgValid = true) (hu : s.ensureSbox = .ok (s.withTables f g)) (v : Byte) :
      Effect s (.kexp len) ((s.withTables f g).withSchedule.answer v)
  /-- R152, R153. -/
  | cipher {i : Instr} (hi : ∃ len, i = .encb len ∨ i = .decb len) (y : Bytes (blockBytes s.nb)) :
      Effect s i ((s.setDout y).answer 0x00)
  /-- R172. -/
  | context {mode pad ivlen : Byte} (hc : s.cfgValid = true) (h0 : ivlen = 0 → mode = 0)
      (hl : ivlen ≠ 0 → ivlen.toNat = blockBytes s.nb) :
      Effect s (.ctxinit mode pad ivlen)
        (State.answer 0x00 { s with mode := mode, padsel := pad, ivlen := ivlen, ivPresent := decide (ivlen ≠ 0),
                                    ctxValid := true, run := false })
  /-- R173. -/
  | start {dir : Byte} (hx : s.ctxValid = true) (hk : s.ksValid = true) (hm : s.mode.toNat ≤ 6) (d : Bool)
      (f0 f1 : Register32) :
      Effect s (.start dir) (State.answer 0x00 { s with fb0 := f0, fb1 := f1, dir := d, blkcnt := 0, run := true })
  /-- R175. -/
  | block (len : Byte) (y : Bytes (blockBytes s.nb)) (f0 f1 : Register32) :
      Effect s (.mblk len) (State.answer 0x00 { s.setDout y with fb0 := f0, fb1 := f1, blkcnt := s.blkcnt + 1 })
  /-- R184. -/
  | tail {n : Byte} (hn : n.toNat < blockBytes s.nb) (y : Bytes n.toNat) :
      Effect s (.mpart n) (State.answer n { s.setDout y with blkcnt := s.blkcnt + 1, run := false })
  /-- R195, in a padded mode. -/
  | padded {n : Byte} (hn : n.toNat < blockBytes s.nb) (p : Padding) :
      Effect s (.pad n) ((s.padded p n.toNat).answer (BitVec.ofNat 8 (blockBytes s.nb)))
  /-- R222. -/
  | write {buf idx : Byte} {b : Buffer} (val : Byte) (hb : b.hostWrites = true) (hi : idx.toNat < bufferSize) :
      Effect s (.wrb buf idx val) ((s.setByte b idx.toNat val).answer 0x00)
  /-- R224. -/
  | reset : Effect s .rst (s.toReset.answer 0x00)

section Completes

variable {s t : State}

theorem Effect.of_withSbox {i : Instr} {u : State} (hi : i = .sbgen ∨ (∃ x, i = .sbfwd x) ∨ ∃ x, i = .sbinv x)
    (h : s.withSbox = .ok u) (v : Byte) : Effect s i (u.answer v) := by
  obtain ⟨hc, hu⟩ := State.withSbox_ok h
  obtain ⟨f, g, rfl⟩ := State.ensureSbox_withTables hu
  exact .build hi hc hu v

theorem Effect.of_expand {u : State} (len : Byte) (hc : s.cfgValid = true) (hu : s.ensureSbox = .ok u) (v : Byte) :
    Effect s (.kexp len) (u.withSchedule.answer v) := by
  obtain ⟨f, g, rfl⟩ := State.ensureSbox_withTables hu
  exact .expand len hc hu v

theorem State.initFeedback_eq (s : State) (mode : Mode) :
    s.initFeedback mode = { s with fb0 := (s.initFeedback mode).fb0, fb1 := (s.initFeedback mode).fb1 } := by
  cases mode <;> simp only [State.initFeedback]

theorem mode_le_of_modeOf {b : Byte} {mode : Mode} (h : modeOf b = some mode) : b.toNat ≤ 6 := by
  rw [modeOf_eq_some_iff.mp h]
  cases mode <;> decide

/-- R10, R252: a command that completes raises one error over the state before it, or has its effect. -/
theorem exec_raises_or_effect {i : Instr} (h : exec i s = .next t) : (∃ e, t = s.raise e) ∨ Effect s i t := by
  cases i with
  | gfadd | gfmul | gfinv | gfirr => exact .inr (Host.Outcome.next.inj h ▸ .answer _ _)
  | gfirrn =>
    obtain ⟨-, rfl⟩ | ⟨_, rfl⟩ := execGfirrn_next h
    exacts [.inl ⟨_, rfl⟩, .inr (.answer _ _)]
  | cfg =>
    obtain ⟨-, rfl⟩ | ⟨k, b, -, -, rfl⟩ := execCfg_next h
    exacts [.inl ⟨_, rfl⟩, .inr (.configure _ _ _ k b)]
  | sbgen =>
    obtain ⟨e, -, rfl⟩ | ⟨_, hu, rfl⟩ := execSbgen_next h
    exacts [.inl ⟨e, rfl⟩, .inr (.of_withSbox (.inl rfl) hu _)]
  | sbfwd x =>
    obtain ⟨e, -, rfl⟩ | ⟨_, hu, rfl⟩ := execSbfwd_next h
    exacts [.inl ⟨e, rfl⟩, .inr (.of_withSbox (.inr (.inl ⟨x, rfl⟩)) hu _)]
  | sbinv x =>
    obtain ⟨e, -, rfl⟩ | ⟨_, hu, rfl⟩ := execSbinv_next h
    exacts [.inl ⟨e, rfl⟩, .inr (.of_withSbox (.inr (.inr ⟨x, rfl⟩)) hu _)]
  | kexp =>
    obtain ⟨-, rfl⟩ | ⟨-, -, rfl⟩ | ⟨-, -, e, -, rfl⟩ | ⟨hc, -, _, hu, rfl⟩ := execKexp_next h
    exacts [.inl ⟨_, rfl⟩, .inl ⟨_, rfl⟩, .inl ⟨e, rfl⟩, .inr (.of_expand _ hc hu _)]
  | rcon =>
    obtain ⟨-, rfl⟩ | ⟨-, rfl⟩ := execRcon_next h
    exacts [.inl ⟨_, rfl⟩, .inr (.answer _ _)]
  | encb len =>
    obtain ⟨e, -, rfl⟩ | ⟨-, rfl⟩ := execEncb_next h
    exacts [.inl ⟨e, rfl⟩, .inr (.cipher ⟨len, .inl rfl⟩ _)]
  | decb len =>
    obtain ⟨e, -, rfl⟩ | ⟨-, rfl⟩ := execDecb_next h
    exacts [.inl ⟨e, rfl⟩, .inr (.cipher ⟨len, .inr rfl⟩ _)]
  | ctxinit =>
    obtain ⟨-, rfl⟩ | ⟨-, -, -, rfl⟩ | ⟨-, -, -, rfl⟩ | ⟨hc, h0, hl, rfl⟩ := execCtxinit_next h
    exacts [.inl ⟨_, rfl⟩, .inl ⟨_, rfl⟩, .inl ⟨_, rfl⟩, .inr (.context hc h0 hl)]
  | start =>
    obtain ⟨-, rfl⟩ | ⟨-, -, rfl⟩ | ⟨-, -, -, rfl⟩ | ⟨-, -, -, -, rfl⟩ |
      ⟨-, hx, hk, mode, hm, ⟨-, rfl⟩ | ⟨-, rfl⟩⟩ := execStart_next h
    case inr.inr.inr.inr.inr =>
      rw [State.initFeedback_eq]
      exact .inr (.start hx hk (mode_le_of_modeOf hm) _ _ _)
    all_goals exact .inl ⟨_, rfl⟩
  | mblk =>
    obtain ⟨-, rfl⟩ | ⟨-, -, rfl⟩ | ⟨-, -, -, rfl⟩ | ⟨-, -, -, _, -, rfl⟩ := execMblk_next h
    exacts [.inl ⟨_, rfl⟩, .inl ⟨_, rfl⟩, .inl ⟨_, rfl⟩, .inr (.block _ _ _ _)]
  | mpart =>
    obtain ⟨-, rfl⟩ | ⟨-, -, rfl⟩ | ⟨-, -, -, rfl⟩ | ⟨-, -, _, -, ⟨-, rfl⟩ | ⟨-, hn, rfl⟩⟩ := execMpart_next h
    exacts [.inl ⟨_, rfl⟩, .inl ⟨_, rfl⟩, .inl ⟨_, rfl⟩, .inl ⟨_, rfl⟩, .inr (.tail hn _)]
  | pad =>
    obtain ⟨e, -, rfl⟩ | ⟨_, -, ⟨-, -, rfl⟩ | ⟨-, -, rfl⟩ | ⟨-, -, rfl⟩ | ⟨-, p, -, ⟨-, rfl⟩ | ⟨hn, rfl⟩⟩⟩ :=
      execPad_next h
    exacts [.inl ⟨e, rfl⟩, .inl ⟨_, rfl⟩, .inr (.answer _ _), .inl ⟨_, rfl⟩, .inl ⟨_, rfl⟩, .inr (.padded hn p)]
  | unpad =>
    obtain ⟨e, -, rfl⟩ | ⟨_, -, ⟨-, rfl⟩ | ⟨-, -, rfl⟩ | ⟨-, _, -, ⟨-, rfl⟩ | ⟨_, -, rfl⟩⟩⟩ := execUnpad_next h
    exacts [.inl ⟨e, rfl⟩, .inr (.answer _ _), .inl ⟨_, rfl⟩, .inl ⟨_, rfl⟩, .inr (.answer _ _)]
  | wrb =>
    obtain ⟨rfl, -⟩ | ⟨b, hb, hi, rfl⟩ := execWrb_next h
    exacts [.inl ⟨_, rfl⟩, .inr (.write _ (Option.filter_eq_some_iff.mp hb).2 hi)]
  | rdb =>
    obtain ⟨rfl, -⟩ | ⟨_, -, -, rfl⟩ := execRdb_next h
    exacts [.inl ⟨_, rfl⟩, .inr (.answer _ _)]
  | rdst =>
    obtain ⟨-, rfl⟩ | ⟨_, -, rfl⟩ := execRdst_next h
    exacts [.inl ⟨_, rfl⟩, .inr (.answer _ _)]
  | rst => exact .inr (Host.Outcome.next.inj h ▸ .reset)

end Completes

/-! The status registers (R14, R15, R251 to R254) -/

theorem ErrorKind.bit_lt (k : ErrorKind) : k.bit < 4 := by cases k <;> decide

/-- R250, R252: the bit of `EFLAGS` read off the code is that of the kind. -/
theorem ErrorName.code_bit (e : ErrorName) : (e.code >>> 4).toNat - 1 = e.kind.bit := by cases e <;> rfl

theorem ErrorName.code_mem_errCodes (e : ErrorName) : e.code ∈ errCodes := by cases e <;> decide

theorem ErrorName.code_ne_zero (e : ErrorName) : e.code ≠ 0x00 := by cases e <;> decide

theorem stickyFlags_eq_or_twoPow (f : Byte) (e : ErrorName) : stickyFlags f e = f ||| BitVec.twoPow 8 e.kind.bit := by
  rw [stickyFlags, e.code_bit, BitVec.twoPow_eq]
  rfl

theorem getLsbD_stickyFlags (f : Byte) (e : ErrorName) (b : Nat) :
    (stickyFlags f e).getLsbD b = (f.getLsbD b || decide (e.kind.bit = b)) := by
  have h8 : e.kind.bit < 8 := e.kind.bit_lt.trans (by decide)
  rw [stickyFlags_eq_or_twoPow, BitVec.getLsbD_or, BitVec.getLsbD_twoPow, decide_eq_true h8, Bool.true_and]

theorem stickyFlags_lt {f : Byte} (h : f.toNat < 16) (e : ErrorName) : (stickyFlags f e).toNat < 16 := by
  have h4 : (2 : Nat) ^ e.kind.bit < 2 ^ 4 := Nat.pow_lt_pow_right one_lt_two e.kind.bit_lt
  rw [stickyFlags_eq_or_twoPow, BitVec.toNat_or, BitVec.toNat_twoPow, Nat.mod_eq_of_lt (h4.trans (by decide))]
  exact Nat.or_lt_two_pow h h4

/-! The invariant, by the operations on the state -/

section Invariant

variable {s u : State}

/-- R252, R254: an error leaves a listed code, `RES` 0 and the bit of its kind. -/
theorem State.Inv.raise (hs : s.Inv) (e : ErrorName) : (s.raise e).Inv := by
  obtain ⟨hflags, ⟨-, h16, -⟩, htables, hschedule, hwf⟩ := hs
  refine ⟨hflags, ⟨e.code_mem_errCodes, stickyFlags_lt h16 e, fun _ => ⟨rfl, ?_⟩⟩, htables, hschedule, hwf⟩
  rw [State.raise_eflags, State.raise_err, e.code_bit, getLsbD_stickyFlags, decide_eq_true rfl, Bool.or_true]

theorem State.Inv.answer (hs : s.Inv) (v : Byte) : (s.answer v).Inv := by
  obtain ⟨hflags, ⟨-, h16, -⟩, htables, hschedule, hwf⟩ := hs
  exact ⟨hflags, ⟨List.mem_cons_self, h16, fun h => absurd rfl h⟩, htables, hschedule, hwf⟩

/-- Of the buffers the invariant asks the canonical form alone, of `DIR`, the feedback registers, `BLKCNT` and the model's own
fields nothing. -/
theorem State.Inv.withData (hs : s.Inv) {mem : Memory} (hwf : mem.wf) (dir : Bool) (fb0 fb1 : Register32)
    (blkcnt : BitVec 64) (host : List HostEvent) (draws : Nat) :
    State.Inv { s with mem := mem, dir := dir, fb0 := fb0, fb1 := fb1, blkcnt := blkcnt, host := host, draws := draws } := by
  obtain ⟨hflags, hstatus, htables, hschedule, -⟩ := hs
  exact ⟨hflags, hstatus, htables, hschedule, hwf⟩

theorem State.Inv.closed (hs : s.Inv) : State.Inv { s with run := false } := by
  obtain ⟨⟨hsb, hks, hctx, -, hlegal⟩, hrest⟩ := hs
  exact ⟨⟨hsb, hks, hctx, nofun, hlegal⟩, hrest⟩

/-- R28: an open call has a context, a schedule and a recognised mode. -/
theorem State.Inv.opened (hs : s.Inv) (hx : s.ctxValid = true) (hk : s.ksValid = true) (hm : s.mode.toNat ≤ 6) :
    State.Inv { s with run := true } := by
  obtain ⟨⟨hsb, hks, hctx, -, hlegal⟩, hrest⟩ := hs
  exact ⟨⟨hsb, hks, hctx, fun _ => ⟨hx, hk, hm⟩, hlegal⟩, hrest⟩

theorem State.Inv.configure (hs : s.Inv) (k b : WordCount) (m : Byte) : (s.configure k b m).Inv := by
  obtain ⟨⟨-, -, -, -, -, hiv, -⟩, hstatus, -, -, hwf⟩ := hs
  exact ⟨⟨nofun, nofun, nofun, nofun, rfl, hiv, nofun⟩, hstatus, nofun, nofun, hwf⟩

/-- R17, R105: the lazy build makes the tables of the configured modulus, and no schedule is valid before it. -/
theorem State.Inv.ensureSbox (hs : s.Inv) (hc : s.cfgValid = true) (hu : s.ensureSbox = .ok u) : u.Inv := by
  obtain ⟨-, rfl⟩ | ⟨hv, hm, rfl⟩ := State.ensureSbox_ok hu
  · exact hs
  · obtain ⟨⟨-, hks, hrest⟩, hstatus, -, -, hwf⟩ := hs
    have hno : s.ksValid ≠ true := fun h => absurd (hv.symm.trans (hks h)) (by decide)
    exact ⟨⟨fun _ => hc, fun _ => rfl, hrest⟩, hstatus, fun _ => ⟨hm, by dsimp only, by dsimp only⟩, fun h => absurd h hno, hwf⟩

/-- R19, R125: the schedule `KEXP` writes is the expansion of the key in `KEYBUF`. -/
theorem State.Inv.expand (hu : u.Inv) (hv : u.sbValid = true) :
    u.withSchedule.Inv := by
  obtain ⟨⟨hsb, -, hctx, -, hlegal⟩, hstatus, htables, -, hwf⟩ := hu
  exact ⟨⟨hsb, fun _ => hv, hctx, nofun, hlegal⟩, hstatus, htables,
    fun _ => ⟨u.bytes .keybuf (keyBytes u.nk), fun _ hi => State.wordAt_expandKey hi⟩, hwf⟩

/-- R172: the checks of `CTXINIT` are what the invariant asks of a context. -/
theorem State.Inv.context (hs : s.Inv) {mode ivlen : Byte} (pad : Byte) (hc : s.cfgValid = true) (h0 : ivlen = 0 → mode = 0)
    (hl : ivlen ≠ 0 → ivlen.toNat = blockBytes s.nb) :
    State.Inv { s with mode := mode, padsel := pad, ivlen := ivlen, ivPresent := decide (ivlen ≠ 0),
                       ctxValid := true, run := false } := by
  obtain ⟨⟨hsb, hks, -, -, hnr, -, -⟩, hrest⟩ := hs
  refine ⟨⟨hsb, hks, fun _ => hc, nofun, hnr, decide_eq_true_iff, fun _ => ?_⟩, hrest⟩
  by_cases h : ivlen = 0
  · exact ⟨.inl h, .inl (h0 h)⟩
  · exact ⟨.inr (hl h), .inr (hl h)⟩

theorem State.setByte_wf (b : Buffer) {i : Nat} (v : Byte) (hi : i < bufferSize) (h : s.mem.wf) :
    (s.setByte b i v).mem.wf :=
  Memory.write_wf _ _ v h (b.addr_lt i hi)

theorem State.padded_wf (p : Padding) {n : Nat} (hn : n < blockBytes s.nb) (h : s.mem.wf) : (s.padded p n).mem.wf := by
  have hfit : blockBytes s.nb ≤ 32 := (blockBytes_bounds s.nb).2
  have hdin : Buffer.din.addr n = 64 + n := rfl
  refine Memory.writeRange_wf _ _ _ h ?_
  rw [padBytes_length p _ _ (by omega), hdin, bufferSize]
  omega

end Invariant

theorem reset_inv : State.reset.Inv := ⟨by decide, by decide, nofun, nofun, State.reset_mem_wf⟩

/-- The invariant holds at reset, whatever the model's own fields hold. -/
theorem reset_inv_withOwn (host : List HostEvent) (draws : Nat) :
    State.Inv { State.reset with host := host, draws := draws } :=
  reset_inv.withData State.reset_mem_wf _ _ _ _ host draws

/-- Every effect keeps the invariant. -/
theorem State.Inv.effect {i : Instr} {s t : State} (hs : s.Inv) (h : Effect s i t) : t.Inv := by
  have hwf : s.mem.wf := hs.2.2.2.2
  have hfit : blockBytes s.nb ≤ bufferSize := (blockBytes_bounds s.nb).2
  cases h with
  | answer _ v => exact hs.answer v
  | configure _ _ m k b => exact (hs.configure k b m).answer _
  | build _ hc hu v => exact (hs.ensureSbox hc hu).answer v
  | expand _ hc hu => exact ((hs.ensureSbox hc hu).expand rfl).answer _
  | cipher _ y => exact (hs.withData (s.setDout_wf y hfit hwf) s.dir s.fb0 s.fb1 s.blkcnt s.host s.draws).answer _
  | context hc h0 hl => exact (hs.context _ hc h0 hl).answer _
  | start hx hk hm d f0 f1 =>
    exact ((hs.withData hwf d f0 f1 0 s.host s.draws).opened hx hk hm).answer _
  | block _ y f0 f1 =>
    exact (hs.withData (s.setDout_wf y hfit hwf) s.dir f0 f1 (s.blkcnt + 1) s.host s.draws).answer _
  | tail hn y =>
    have hmem := s.setDout_wf y (hn.le.trans hfit) hwf
    exact ((hs.withData hmem s.dir s.fb0 s.fb1 (s.blkcnt + 1) s.host s.draws).closed).answer _
  | padded hn p => exact (hs.withData (State.padded_wf p hn hwf) s.dir s.fb0 s.fb1 s.blkcnt s.host _).answer _
  | write val _ hi => exact (hs.withData (State.setByte_wf _ val hi hwf) s.dir s.fb0 s.fb1 s.blkcnt s.host s.draws).answer _
  | reset => exact (reset_inv_withOwn s.host s.draws).answer _

theorem exec_keeps_inv {i : Instr} {s t : State} (hs : s.Inv) (h : exec i s = .next t) : t.Inv := by
  obtain ⟨e, rfl⟩ | heffect := exec_raises_or_effect h
  · exact hs.raise e
  · exact hs.effect heffect

theorem State.Inv.withHost {s : State} (hs : s.Inv) (rest : List HostEvent) : State.Inv { s with host := rest } :=
  hs.withData hs.2.2.2.2 s.dir s.fb0 s.fb1 s.blkcnt rest s.draws

theorem step_keeps_inv {s t : State} (hs : s.Inv) (h : step s = .next t) : t.Inv := by
  obtain ⟨-, hr⟩ | ⟨rest, -, hr⟩ | ⟨_, rest, _, -, -, hr⟩ | ⟨_, rest, i, -, -, hr⟩ := step_cases h
  · exact Host.Outcome.next.inj hr ▸ hs
  · exact Host.Outcome.next.inj hr ▸ reset_inv_withOwn rest s.draws
  · exact Host.Outcome.next.inj hr ▸ (hs.withHost rest).raise _
  · exact exec_keeps_inv (hs.withHost rest) hr.symm

/-! Completion (R65, R175, R258) -/

/-- R28, R175: the one command that can stop is `MBLK`, in an open call whose mode is not recognised. -/
theorem exec_mblk_completes (len : Byte) {s : State} (hmode : s.run = true → s.mode.toNat ≤ 6) :
    ∃ t, exec (.mblk len) s = .next t := by
  rw [exec, execMblk]
  split
  · exact ⟨_, rfl⟩
  · split
    · exact ⟨_, rfl⟩
    · next hr =>
      obtain ⟨mode, hm⟩ := exists_modeOf (hmode (by simpa using hr))
      rw [hm]
      split <;> exact ⟨_, rfl⟩

/-- Every branch of every other meaning is a next state. -/
theorem exec_completes (i : Instr) {s : State} (hmode : s.run = true → s.mode.toNat ≤ 6) : ∃ t, exec i s = .next t := by
  cases i with
  | mblk len => exact exec_mblk_completes len hmode
  | gfadd | gfmul | gfinv | gfirr | rst => exact ⟨_, rfl⟩
  | gfirrn | rcon | wrb | rdb | rdst | cfg | sbgen | sbfwd | sbinv | kexp | encb | decb | ctxinit | start | mpart | pad | unpad =>
    simp only [exec, execGfirrn, execRcon, execWrb, execRdb, execRdst, execCfg, execSbgen, execSbfwd, execSbinv, execKexp,
      execEncb, execDecb, execCtxinit, execStart, execMpart, execPad, execUnpad]
    repeat' split
    all_goals exact ⟨_, rfl⟩

theorem State.Inv.mode_le {s : State} (hs : s.Inv) : s.run = true → s.mode.toNat ≤ 6 := by
  obtain ⟨⟨-, -, -, hrun, -⟩, -⟩ := hs
  exact fun hr => (hrun hr).2.2

theorem step_completes {s : State} (hs : s.Inv) : ∃ t, step s = .next t := by
  obtain ⟨-, hr⟩ | ⟨_, -, hr⟩ | ⟨_, _, _, -, -, hr⟩ | ⟨_, rest, i, -, -, hr⟩ := step_cases (rfl : step s = step s)
  · exact ⟨_, hr⟩
  · exact ⟨_, hr⟩
  · exact ⟨_, hr⟩
  · exact hr ▸ exec_completes i (hs.withHost rest).mode_le

theorem run_succ {M : Host.Core} {s u : M.State} (h : M.step s = .next u) (k : Nat) : M.run (k + 1) s = M.run k u := by
  rw [Host.Core.run, h]

/-- R65, R258: from a state of the invariant any number of steps ends in one. -/
theorem run_keeps_inv (k : Nat) {s : State} (hs : s.Inv) : ∃ t, core.run k s = .next t ∧ State.Inv t := by
  induction k generalizing s with
  | zero => exact ⟨s, rfl, hs⟩
  | succ k ih =>
    obtain ⟨u, hu⟩ := step_completes hs
    obtain ⟨t, ht, hinv⟩ := ih (step_keeps_inv hs hu)
    exact ⟨t, (run_succ (M := core) hu k).trans ht, hinv⟩

end Sys2Proof.Machine

namespace Sys2Proof.Proofs

open Sys2Proof.Machine

/-- Settles O50: each kind of effect, `raise` and reset keep each part of the invariant, and a step is one of them at the
state without the host's word. -/
theorem invariantIsKeptByEveryStep : Obligations.InvariantIsKeptByEveryStep := by
  unfold Obligations.InvariantIsKeptByEveryStep
  exact fun s t => step_keeps_inv

/-- Settles O51: at reset every valid flag is 0, and the memory lists nothing. -/
theorem invariantHoldsAtReset : Obligations.InvariantHoldsAtReset := by
  unfold Obligations.InvariantHoldsAtReset
  exact reset_inv_withOwn

/-- Settles O52: a step from the invariant completes, and keeps it, so induction over the number of steps goes through. -/
theorem theUnitNeverStops : Obligations.TheUnitNeverStops := by
  unfold Obligations.TheUnitNeverStops
  refine ⟨fun s hs => ?_, fun k host => run_keeps_inv k (reset_inv_withOwn host State.reset.draws)⟩
  obtain ⟨t, ht⟩ := step_completes hs
  exact ⟨t, ht, step_keeps_inv hs ht⟩

/-- Settles O45: every branch of every meaning but the one of `MBLK` without a mode is a next state. -/
theorem everyCommandAnswers : Obligations.EveryCommandAnswers := by
  unfold Obligations.EveryCommandAnswers
  intro i s hmode
  obtain ⟨t, ht⟩ := exec_completes i hmode
  exact ⟨t, ht, BitVec.extractLsb'_append_eq_left, BitVec.extractLsb'_append_eq_right⟩

end Sys2Proof.Proofs

/-! PROOFS. Which error a command raises (`60_exceptions.md` rules R251 to R256), and what commands leave alone
(`10_state.md` rules R15 to R31, `20_memory.md` rule R41): the errors by the table of check orders, the writers of each
register and buffer by the kinds of effect, and two runs that differ in `KEYBUF` side by side. -/

namespace Sys2Proof.Machine

/-! The checks of `firstFailure` against those of the meanings (R256) -/

section Checks

variable {s t u : State} {e : ErrorName}

/-- R101: the operand check of `CFG`. -/
theorem legalCount_eq_isSome (b : Byte) : legalCount b = (wordCount b).isSome := by
  revert b; decide

/-- R104: `EnsureSbox` fails exactly where `firstFailure` says so. -/
theorem State.ensureSbox_ok_check (h : s.ensureSbox = .ok u) : (!s.sbValid && !isIrreducible s.modulus) = false := by
  obtain ⟨hv, -⟩ | ⟨-, hm, -⟩ := State.ensureSbox_ok h
  · simp [hv]
  · simp [hm]

theorem writableBuffer_eq_none_iff (buf : Byte) : (bufferOf buf).filter Buffer.hostWrites = none ↔ 2 < buf.toNat := by
  revert buf; decide

theorem readableBuffer_eq_none_iff (buf : Byte) :
    (bufferOf buf).filter Buffer.hostReads = none ↔ ¬(buf.toNat = 2 ∨ buf.toNat = 3) := by
  revert buf; decide

theorem keystreamMode_eq_none_iff (b : Byte) :
    (modeOf b).filter Mode.hasKeystream = none ↔ b.toNat < 3 ∨ 5 < b.toNat := by
  revert b; decide

theorem State.statusByte_eq_none_iff {sel : Byte} : s.statusByte sel = none ↔ 8 < sel.toNat := by
  refine ⟨fun h => ?_, State.statusByte_eq_none⟩
  unfold State.statusByte at h
  split at h
  case h_10 => grind
  all_goals cases h

theorem padding_le_of_paddingOf {b : Byte} {p : Padding} (h : paddingOf b = some p) : ¬ 3 < b.toNat := by
  rw [← paddingOf_eq_none, h]
  exact Option.some_ne_none p

/-- R201 to R204: the padding check of `firstFailure` is that of `PadLength`. -/
theorem malformed_selector (p : Padding) (size : Nat) (block : Nat → Byte) :
    malformed p.selector size block = (padLength p size block).isNone := by
  rw [Bool.eq_iff_iff, ← Bool.not_eq_false, ← not_iff_not]
  simp only [Bool.not_eq_true, Option.isNone_eq_false_iff, Option.isSome_iff_exists]
  cases p with
  | zeros => simp [malformed, Padding.selector, padLength]
  | pkcs7 =>
    simp only [padLength_pkcs7_eq_some_iff]
    grind [malformed, Padding.selector]
  | ansix923 =>
    simp only [padLength_ansix923_eq_some_iff]
    grind [malformed, Padding.selector]
  | iso10126 =>
    simp only [padLength_iso10126_eq_some_iff]
    grind [malformed, Padding.selector]

theorem firstFailure_sbox_of_error {i : Instr} (hi : i = .sbgen ∨ (∃ x, i = .sbfwd x) ∨ ∃ x, i = .sbinv x)
    (h : s.withSbox = .error e) : firstFailure i s = e.code := by
  obtain ⟨hc, rfl⟩ | ⟨hc, hs⟩ := State.withSbox_error h
  · obtain rfl | ⟨x, rfl⟩ | ⟨x, rfl⟩ := hi <;> simp [firstFailure, hc, ErrorName.code]
  · obtain ⟨rfl, hv, hm⟩ := State.ensureSbox_error hs
    obtain rfl | ⟨x, rfl⟩ | ⟨x, rfl⟩ := hi <;> simp [firstFailure, hc, hv, hm, ErrorName.code]

theorem firstFailure_sbox_of_ok {i : Instr} (hi : i = .sbgen ∨ (∃ x, i = .sbfwd x) ∨ ∃ x, i = .sbinv x)
    (h : s.withSbox = .ok u) : firstFailure i s = 0x00 := by
  obtain ⟨hc, hs⟩ := State.withSbox_ok h
  have hbox := State.ensureSbox_ok_check hs
  obtain rfl | ⟨x, rfl⟩ | ⟨x, rfl⟩ := hi <;> simp [firstFailure, hc, hbox]

theorem firstFailure_kexp {len : Byte} (h : execKexp len s = .next t) : t.err = firstFailure (.kexp len) s := by
  obtain ⟨hc, rfl⟩ | ⟨hc, hl, rfl⟩ | ⟨hc, hl, e, he, rfl⟩ | ⟨hc, hl, u, hu, rfl⟩ := execKexp_next h
  · simp [firstFailure, hc, ErrorName.code]
  · rw [keyBytes] at hl
    simp [firstFailure, hc, hl, ErrorName.code]
  · obtain ⟨rfl, hv, hm⟩ := State.ensureSbox_error he
    rw [keyBytes] at hl
    simp [firstFailure, hc, hl, hv, hm, ErrorName.code]
  · have hbox := State.ensureSbox_ok_check hu
    rw [keyBytes] at hl
    simp [firstFailure, hc, hl, hbox]

theorem firstFailure_block_of_some {i : Instr} {len : Byte} (hi : i = .encb len ∨ i = .decb len)
    (h : s.blockCheck len = some e) : firstFailure i s = e.code := by
  obtain ⟨hc, rfl⟩ | ⟨hc, hk, rfl⟩ | ⟨hc, hk, hl, rfl⟩ := State.blockCheck_some h
  · obtain rfl | rfl := hi <;> simp [firstFailure, hc, ErrorName.code]
  · obtain rfl | rfl := hi <;> simp [firstFailure, hc, hk, ErrorName.code]
  · obtain rfl | rfl := hi <;> simp [firstFailure, hc, hk, hl, ErrorName.code]

theorem firstFailure_block_of_none {i : Instr} {len : Byte} (hi : i = .encb len ∨ i = .decb len)
    (h : s.blockCheck len = none) : firstFailure i s = 0x00 := by
  obtain ⟨hc, hk, hl⟩ := State.blockCheck_none.mp h
  obtain rfl | rfl := hi <;> simp [firstFailure, hc, hk, hl]

theorem firstFailure_start {dir : Byte} (h : execStart dir s = .next t) : t.err = firstFailure (.start dir) s := by
  obtain ⟨hc, rfl⟩ | ⟨hc, hx, rfl⟩ | ⟨hc, hx, hk, rfl⟩ | ⟨hc, hx, hk, hm, rfl⟩ |
    ⟨hc, hx, hk, mode, hm, ⟨hd, rfl⟩ | ⟨hd, rfl⟩⟩ := execStart_next h
  · simp [firstFailure, hc, ErrorName.code]
  · simp [firstFailure, hc, hx, ErrorName.code]
  · simp [firstFailure, hc, hx, hk, ErrorName.code]
  · simp [firstFailure, hc, hx, hk, (modeOf_eq_none _).mp hm, ErrorName.code]
  · simp [firstFailure, hc, hx, hk, Nat.not_lt.mpr (mode_le_of_modeOf hm), hd, ErrorName.code]
  · simp [firstFailure, hc, hx, hk, Nat.not_lt.mpr (mode_le_of_modeOf hm), hd]

theorem firstFailure_mblk {len : Byte} (h : execMblk len s = .next t) : t.err = firstFailure (.mblk len) s := by
  obtain ⟨hc, rfl⟩ | ⟨hc, hr, rfl⟩ | ⟨hc, hr, hl, rfl⟩ | ⟨hc, hr, hl, mode, -, rfl⟩ := execMblk_next h
  · simp [firstFailure, hc, ErrorName.code]
  · simp [firstFailure, hc, hr, ErrorName.code]
  · simp [firstFailure, hc, hr, hl, ErrorName.code]
  · simp [firstFailure, hc, hr, hl]

theorem firstFailure_mpart {n : Byte} (h : execMpart n s = .next t) : t.err = firstFailure (.mpart n) s := by
  obtain ⟨hc, rfl⟩ | ⟨hc, hr, rfl⟩ | ⟨hc, hr, hm, rfl⟩ | ⟨hc, hr, mode, hm, hn⟩ := execMpart_next h
  · simp [firstFailure, hc, ErrorName.code]
  · simp [firstFailure, hc, hr, ErrorName.code]
  · simp [firstFailure, hc, hr, (keystreamMode_eq_none_iff _).mp hm, ErrorName.code]
  · have hkey : ¬(s.mode.toNat < 3 ∨ 5 < s.mode.toNat) := by
      rw [← keystreamMode_eq_none_iff, hm]
      exact Option.some_ne_none mode
    obtain ⟨hn, rfl⟩ | ⟨h1, hn, rfl⟩ := hn
    · have hcount : n.toNat = 0 ∨ blockBytes s.nb ≤ n.toNat := hn.imp Nat.lt_one_iff.mp id
      simp only [firstFailure, hc, hr, if_neg hkey, if_pos hcount]
      rfl
    · have hcount : ¬(n.toNat = 0 ∨ blockBytes s.nb ≤ n.toNat) := by omega
      simp only [firstFailure, hc, hr, if_neg hkey, if_neg hcount]
      rfl

theorem firstFailure_of_paddingMode_error {i : Instr} (hi : (∃ n, i = .pad n) ∨ i = .unpad) (h : s.paddingMode = .error e) :
    firstFailure i s = e.code := by
  obtain ⟨hc, rfl⟩ | ⟨hc, hx, rfl⟩ | ⟨hc, hx, hm, rfl⟩ := State.paddingMode_error h
  · obtain ⟨n, rfl⟩ | rfl := hi <;> simp [firstFailure, hc, ErrorName.code]
  · obtain ⟨n, rfl⟩ | rfl := hi <;> simp [firstFailure, hc, hx, ErrorName.code]
  · have h6 := (modeOf_eq_none _).mp hm
    obtain ⟨n, rfl⟩ | rfl := hi <;> simp [firstFailure, hc, hx, h6, ErrorName.code]

theorem firstFailure_pad {n : Byte} (h : execPad n s = .next t) : t.err = firstFailure (.pad n) s := by
  obtain ⟨e, he, rfl⟩ | ⟨mode, hp, h⟩ := execPad_next h
  · exact (firstFailure_of_paddingMode_error (.inl ⟨n, rfl⟩) he).symm
  · obtain ⟨hc, hx, hm⟩ := State.paddingMode_ok.mp hp
    have h6 : ¬ 6 < s.mode.toNat := Nat.not_lt.mpr (mode_le_of_modeOf hm)
    rw [streamStyle_of_modeOf hm, decide_eq_true_eq, decide_eq_false_iff_not] at h
    obtain ⟨h3, hn, rfl⟩ | ⟨h3, hn, rfl⟩ | ⟨h3, hq, rfl⟩ | ⟨h3, p, hq, ⟨hn, rfl⟩ | ⟨hn, rfl⟩⟩ := h
    · simp [firstFailure, hc, hx, h6, h3, hn, ErrorName.code]
    · simp [firstFailure, hc, hx, h6, h3, hn]
    · simp [firstFailure, hc, hx, h6, h3, (paddingOf_eq_none _).mp hq, ErrorName.code]
    · simp [firstFailure, hc, hx, h6, h3, padding_le_of_paddingOf hq, hn, ErrorName.code]
    · simp [firstFailure, hc, hx, h6, h3, padding_le_of_paddingOf hq, hn]

theorem firstFailure_unpad (h : execUnpad s = .next t) : t.err = firstFailure .unpad s := by
  obtain ⟨e, he, rfl⟩ | ⟨mode, hp, h⟩ := execUnpad_next h
  · exact (firstFailure_of_paddingMode_error (.inr rfl) he).symm
  · obtain ⟨hc, hx, hm⟩ := State.paddingMode_ok.mp hp
    have h6 : ¬ 6 < s.mode.toNat := Nat.not_lt.mpr (mode_le_of_modeOf hm)
    rw [streamStyle_of_modeOf hm, decide_eq_true_eq, decide_eq_false_iff_not] at h
    obtain ⟨h3, rfl⟩ | ⟨h3, hq, rfl⟩ | ⟨h3, p, hq, hl⟩ := h
    · simp [firstFailure, hc, hx, h6, h3]
    · simp [firstFailure, hc, hx, h6, h3, (paddingOf_eq_none _).mp hq, ErrorName.code]
    · have hmal := malformed_selector p (blockBytes s.nb) (s.byte .dout)
      rw [← paddingOf_eq_some_iff.mp hq] at hmal
      obtain ⟨hl, rfl⟩ | ⟨len, hl, rfl⟩ := hl
      · simp [firstFailure, hc, hx, h6, h3, padding_le_of_paddingOf hq, hmal, hl, ErrorName.code]
      · simp [firstFailure, hc, hx, h6, h3, padding_le_of_paddingOf hq, hmal, hl]

theorem firstFailure_ctxinit {mode pad ivlen : Byte} (h : execCtxinit mode pad ivlen s = .next t) :
    t.err = firstFailure (.ctxinit mode pad ivlen) s := by
  have hzero : ivlen.toNat = 0 ↔ ivlen = 0 := BitVec.toNat_inj (y := (0 : Byte))
  obtain ⟨hc, rfl⟩ | ⟨hc, hm, hi, rfl⟩ | ⟨hc, hi, hl, rfl⟩ | ⟨hc, h0, hl, rfl⟩ := execCtxinit_next h
  · simp [firstFailure, hc, ErrorName.code]
  · have hiv : mode ≠ 0 ∧ ivlen = 0 := ⟨hm, hi⟩
    simp only [firstFailure, hc, if_pos hiv]
    rfl
  · have hiv : ¬(mode ≠ 0 ∧ ivlen = 0) := fun h => hi h.2
    have hsize : ¬(ivlen.toNat = 0 ∨ ivlen.toNat = blockBytes s.nb) := fun h => h.elim (fun h => hi (hzero.mp h)) hl
    simp only [firstFailure, hc, if_neg hiv, if_pos hsize]
    rfl
  · have hiv : ¬(mode ≠ 0 ∧ ivlen = 0) := fun h => h.1 (h0 h.2)
    have hsize : ¬¬(ivlen.toNat = 0 ∨ ivlen.toNat = blockBytes s.nb) :=
      not_not_intro ((em _).imp_right fun h => hl (hzero.not.mp h))
    simp only [firstFailure, hc, if_neg hiv, if_neg hsize]
    rfl

theorem firstFailure_wrb {buf idx val : Byte} (h : execWrb buf idx val s = .next t) :
    t.err = firstFailure (.wrb buf idx val) s := by
  obtain ⟨rfl, hbad⟩ | ⟨b, hb, hi, rfl⟩ := execWrb_next h
  · rw [writableBuffer_eq_none_iff] at hbad
    exact (if_pos hbad).symm
  · have hbuf : ¬ 2 < buf.toNat := by
      rw [← writableBuffer_eq_none_iff, hb]
      exact Option.some_ne_none b
    exact (if_neg (not_or_intro hbuf (Nat.not_lt.mpr (Nat.le_of_lt_succ hi)))).symm

theorem firstFailure_rdb {buf idx : Byte} (h : execRdb buf idx s = .next t) : t.err = firstFailure (.rdb buf idx) s := by
  obtain ⟨rfl, hbad⟩ | ⟨b, hb, hi, rfl⟩ := execRdb_next h
  · rw [readableBuffer_eq_none_iff] at hbad
    exact (if_pos hbad).symm
  · have hbuf : ¬¬(buf.toNat = 2 ∨ buf.toNat = 3) := by
      rw [← readableBuffer_eq_none_iff, hb]
      exact Option.some_ne_none b
    exact (if_neg (not_or_intro hbuf (Nat.not_lt.mpr (Nat.le_of_lt_succ hi)))).symm

/-- R255, R256: the table of check orders decides the error of every command. -/
theorem err_eq_firstFailure {i : Instr} (h : exec i s = .next t) : t.err = firstFailure i s := by
  cases i with
  | gfadd | gfmul | gfinv | gfirr | rst => exact Host.Outcome.next.inj h ▸ rfl
  | gfirrn =>
    obtain ⟨hk, rfl⟩ | ⟨hk, rfl⟩ := execGfirrn_next h
    exacts [(if_pos hk).symm, (if_neg (Nat.not_le.mpr hk)).symm]
  | cfg =>
    obtain ⟨hk, rfl⟩ | ⟨k, b, hk, hb, rfl⟩ := execCfg_next h
    · obtain hk | hb := hk
      · simp [firstFailure, legalCount_eq_isSome, hk, ErrorName.code]
      · simp [firstFailure, legalCount_eq_isSome, hb, ErrorName.code]
    · simp [firstFailure, legalCount_eq_isSome, hk, hb]
  | sbgen =>
    obtain ⟨e, he, rfl⟩ | ⟨_, hu, rfl⟩ := execSbgen_next h
    exacts [(firstFailure_sbox_of_error (.inl rfl) he).symm, (firstFailure_sbox_of_ok (.inl rfl) hu).symm]
  | sbfwd x =>
    obtain ⟨e, he, rfl⟩ | ⟨_, hu, rfl⟩ := execSbfwd_next h
    exacts [(firstFailure_sbox_of_error (.inr (.inl ⟨x, rfl⟩)) he).symm,
      (firstFailure_sbox_of_ok (.inr (.inl ⟨x, rfl⟩)) hu).symm]
  | sbinv x =>
    obtain ⟨e, he, rfl⟩ | ⟨_, hu, rfl⟩ := execSbinv_next h
    exacts [(firstFailure_sbox_of_error (.inr (.inr ⟨x, rfl⟩)) he).symm,
      (firstFailure_sbox_of_ok (.inr (.inr ⟨x, rfl⟩)) hu).symm]
  | kexp => exact firstFailure_kexp h
  | rcon =>
    obtain ⟨hj, rfl⟩ | ⟨hj, rfl⟩ := execRcon_next h
    exacts [(if_pos hj).symm, (if_neg hj).symm]
  | encb len =>
    obtain ⟨e, he, rfl⟩ | ⟨hb, rfl⟩ := execEncb_next h
    exacts [(firstFailure_block_of_some (.inl rfl) he).symm, (firstFailure_block_of_none (.inl rfl) hb).symm]
  | decb len =>
    obtain ⟨e, he, rfl⟩ | ⟨hb, rfl⟩ := execDecb_next h
    exacts [(firstFailure_block_of_some (.inr rfl) he).symm, (firstFailure_block_of_none (.inr rfl) hb).symm]
  | ctxinit => exact firstFailure_ctxinit h
  | start => exact firstFailure_start h
  | mblk => exact firstFailure_mblk h
  | mpart => exact firstFailure_mpart h
  | pad => exact firstFailure_pad h
  | unpad => exact firstFailure_unpad h
  | wrb => exact firstFailure_wrb h
  | rdb => exact firstFailure_rdb h
  | rdst =>
    obtain ⟨hv, rfl⟩ | ⟨v, hv, rfl⟩ := execRdst_next h
    · exact (if_pos (State.statusByte_eq_none_iff.mp hv)).symm
    · have hsel := State.statusByte_eq_none_iff.not.mp (hv ▸ Option.some_ne_none v)
      exact (if_neg hsel).symm

/-- R251: every code of the table of check orders stands in the row of its command in the table of errors. -/
theorem firstFailure_mem_mayAnswer (i : Instr) (s : State) : firstFailure i s ∈ mayAnswer i := by
  cases i <;> simp only [firstFailure, mayAnswer] <;> (repeat' split) <;> decide

theorem mem_errCodes_of_mem_mayAnswer (i : Instr) : ∀ c ∈ mayAnswer i, c ∈ errCodes := by
  cases i <;> simp only [mayAnswer] <;> decide

end Checks

/-! The writers of the status, the registers and the buffers (R15 to R31) -/

section Writers

variable {i : Instr} {s t u : State}

/-- R105: where the tables are built the lazy build leaves them alone. -/
theorem State.ensureSbox_of_sbValid {f g : SBox} (hu : s.ensureSbox = .ok (s.withTables f g)) (hv : s.sbValid = true) :
    f = s.sbf ∧ g = s.sbi := by
  have h : s = s.withTables f g := Except.ok.inj ((State.ensureSbox_of_built hv).symm.trans hu)
  exact ⟨(congrArg State.sbf h).symm, (congrArg State.sbi h).symm⟩

/-- R252: an effect writes 0 to `ERR`, and none but reset writes `EFLAGS`. -/
theorem Effect.status (h : Effect s i t) : t.err = 0x00 ∧ (i ≠ .rst → t.eflags = s.eflags) := by
  cases h with
  | reset => exact ⟨rfl, fun h => absurd rfl h⟩
  | _ => exact ⟨rfl, fun _ => rfl⟩

/-- R18, R20 to R22, R31: the buffers a command writes. -/
def writesBuffer : Instr → Buffer → Bool
  | .wrb _ _ _, b => b.hostWrites
  | .pad _, .din => true
  | .encb _, .dout | .decb _, .dout | .mblk _, .dout | .mpart _, .dout => true
  | _, _ => false

theorem State.byte_setDout_of_ne (s : State) {n : Nat} (y : Bytes n) (hn : n ≤ bufferSize) {c : Buffer} (hc : c ≠ .dout)
    {j : Nat} (hj : j < bufferSize) : (s.setDout y).byte c j = s.byte c j := by
  rw [State.byte_setDout s y hn c j hj, if_neg hc]

theorem State.byte_padded_of_ne (s : State) (p : Padding) {n : Nat} (hn : n < blockBytes s.nb) {c : Buffer} (hc : c ≠ .din)
    {j : Nat} (hj : j < bufferSize) : (s.padded p n).byte c j = s.byte c j := by
  have hfit : blockBytes s.nb ≤ bufferSize := (blockBytes_bounds s.nb).2
  have hlen := padBytes_length p (blockBytes s.nb - n) s.draws (by omega)
  exact (State.byte_setBytes s .din c n j _ (by omega) hj).trans (dif_neg fun h => hc h.1)

/-- The bytes of a buffer stay as they are in every command that does not write it. -/
theorem byte_of_not_writesBuffer (h : exec i s = .next t) (hi : i ≠ .rst) {c : Buffer} (hw : writesBuffer i c = false)
    {j : Nat} (hj : j < bufferSize) : t.byte c j = s.byte c j := by
  have hfit : blockBytes s.nb ≤ bufferSize := (blockBytes_bounds s.nb).2
  obtain ⟨e, rfl⟩ | heffect := exec_raises_or_effect h
  · rfl
  · cases heffect with
    | cipher hi y =>
      refine s.byte_setDout_of_ne y hfit ?_ hj
      rintro rfl
      obtain ⟨len, rfl | rfl⟩ := hi <;> exact absurd hw (by simp [writesBuffer])
    | block _ y => exact s.byte_setDout_of_ne y hfit (by rintro rfl; exact absurd hw (by simp [writesBuffer])) hj
    | tail hn y =>
      exact s.byte_setDout_of_ne y (hn.le.trans hfit) (by rintro rfl; exact absurd hw (by simp [writesBuffer])) hj
    | padded hn p => exact s.byte_padded_of_ne p hn (by rintro rfl; exact absurd hw (by simp [writesBuffer])) hj
    | @write _ _ b val hb hidx =>
      refine (State.byte_setByte s b c _ j val hidx hj).trans (if_neg ?_)
      rintro ⟨rfl, -⟩
      exact absurd (hw.symm.trans hb) Bool.false_ne_true
    | reset => exact absurd rfl hi
    | _ => rfl

theorem ErrorName.kind_number (e : ErrorName) : e.code.toNat / 16 = e.kind.bit + 1 := by cases e <;> rfl

end Writers

/-! Two runs that differ at most in `KEYBUF` (R41, R51) -/

theorem SameButKeybuf.answer {t t' : State} (h : SameButKeybuf t t') (v : Byte) : SameButKeybuf (t.answer v) (t'.answer v) := by
  obtain ⟨hrest, hmem⟩ := h
  exact ⟨congrArg (State.answer v) hrest, hmem⟩

/-- The state with another memory. -/
def State.withMem (s : State) (m : Memory) : State := { s with mem := m }

/-- R105: the lazy build does not read memory. -/
theorem State.withSbox_withMem (s : State) (m : Memory) :
    (s.withMem m).withSbox = s.withSbox.map fun u => u.withMem m := by
  cases hc : s.cfgValid with
  | false => rw [State.withSbox_of_not_configured hc, State.withSbox_of_not_configured (s := s.withMem m) hc, Except.map]
  | true =>
    rw [State.withSbox_of_configured hc, State.withSbox_of_configured (s := s.withMem m) hc]
    cases hv : s.sbValid with
    | true => rw [State.ensureSbox_of_built hv, State.ensureSbox_of_built (s := s.withMem m) hv, Except.map]
    | false =>
      cases hm : isIrreducible s.modulus with
      | false =>
        rw [State.ensureSbox_of_reducible hv hm, State.ensureSbox_of_reducible (s := s.withMem m) hv hm, Except.map]
      | true =>
        rw [State.ensureSbox_of_irreducible hv hm, State.ensureSbox_of_irreducible (s := s.withMem m) hv hm, Except.map]
        simp only [State.withMem]

theorem State.withSbox_mem {s u : State} (h : s.withSbox = .ok u) : u.mem = s.mem := by
  obtain ⟨-, hu⟩ := State.withSbox_ok h
  obtain ⟨f, g, rfl⟩ := State.ensureSbox_withTables hu
  rfl

/-- Where one result is a next state, so is the other, and the two differ at most in `KEYBUF`. -/
def SameResult (r r' : Result) : Prop := ∀ t, r = .next t → ∃ t', r' = .next t' ∧ SameButKeybuf t t'

theorem SameButKeybuf.next {t t' : State} (h : SameButKeybuf t t') : SameResult (.next t) (.next t') := by
  rintro _ ⟨⟩
  exact ⟨t', rfl, h⟩

/-- Both runs take the same branch. -/
theorem SameResult.branch {c : Prop} {d d' : Decidable c} {a a' b b' : Result} (ha : SameResult a a') (hb : SameResult b b') :
    SameResult (@ite _ c d a b) (@ite _ c d' a' b') := by
  by_cases h : c
  · simpa only [if_pos h] using ha
  · simpa only [if_neg h] using hb

section KeyBuffer

variable {s : State} {m : Memory} (h : ∀ a, bufferSize ≤ a → m.read a = s.mem.read a)
include h

theorem State.byte_withMem {c : Buffer} (hc : c ≠ .keybuf) (j : Nat) : (s.withMem m).byte c j = s.byte c j := by
  refine h _ ?_
  cases c
  case keybuf => exact absurd rfl hc
  all_goals exact Nat.le_add_right_of_le (by decide)

theorem State.bytes_withMem {c : Buffer} (hc : c ≠ .keybuf) (n : Nat) : (s.withMem m).bytes c n = s.bytes c n := by
  ext j hj : 1
  rw [State.bytes_getElem, State.bytes_getElem, State.byte_withMem h hc]

theorem State.inputBlock_withMem : (s.withMem m).inputBlock = s.inputBlock := State.bytes_withMem h (by decide) _

/-- R174: the IV lies outside `KEYBUF`. -/
theorem State.initFeedback_withMem (mode : Mode) : (s.withMem m).initFeedback mode = (s.initFeedback mode).withMem m := by
  have hiv : (s.withMem m).bytes .ivbuf (blockBytes s.nb) = s.bytes .ivbuf (blockBytes s.nb) :=
    State.bytes_withMem h (by decide) _
  unfold State.initFeedback
  rw [show (s.withMem m).nb = s.nb from rfl, hiv]
  cases mode <;> simp only [State.withMem]

/-- R184: the tail lies outside `KEYBUF`. -/
theorem State.tailBytes_withMem (mode : Mode) (n : Nat) : (s.withMem m).tailBytes mode n = s.tailBytes mode n := by
  have hdin : (s.withMem m).bytes .din n = s.bytes .din n := State.bytes_withMem h (by decide) _
  unfold State.tailBytes
  rw [hdin]
  cases mode <;> rfl

theorem State.writeRange_read_congr (a : Nat) (vs : List Byte) (x : Nat) (hx : bufferSize ≤ x) :
    (m.writeRange a vs).read x = (s.mem.writeRange a vs).read x := by
  rw [Memory.read_writeRange, Memory.read_writeRange, h x hx]

theorem SameResult.raise (e : ErrorName) : SameResult (.next (s.raise e)) (.next ((s.withMem m).raise e)) :=
  SameButKeybuf.next ⟨rfl, h⟩

theorem SameResult.answer (v : Byte) : SameResult (.next (s.answer v)) (.next ((s.withMem m).answer v)) :=
  SameButKeybuf.next ⟨rfl, h⟩

theorem SameButKeybuf.setDout {n : Nat} (y : Bytes n) : SameButKeybuf (s.setDout y) ((s.withMem m).setDout y) :=
  ⟨rfl, State.writeRange_read_congr h _ _⟩

/-- R175: the block lies outside `KEYBUF`. -/
theorem SameButKeybuf.afterBlock (mode : Mode) : SameButKeybuf (s.afterBlock mode) ((s.withMem m).afterBlock mode) := by
  have hblock := State.inputBlock_withMem h
  unfold State.afterBlock
  rw [hblock]
  exact ⟨rfl, State.writeRange_read_congr h _ _⟩

theorem sameResult_gfirrn (k : Byte) : SameResult (execGfirrn k s) (execGfirrn k (s.withMem m)) := by
  unfold execGfirrn
  cases irreducibleList[k.toNat]?
  · exact .raise h _
  · exact .answer h _

theorem sameResult_rcon (j : Byte) : SameResult (execRcon j s) (execRcon j (s.withMem m)) :=
  .branch (.raise h _) (.answer h _)

theorem sameResult_cfg (nk nb k : Byte) : SameResult (execCfg nk nb k s) (execCfg nk nb k (s.withMem m)) := by
  unfold execCfg
  cases wordCount nk <;> cases wordCount nb
  case some.some => exact SameButKeybuf.next ⟨rfl, h⟩
  all_goals exact .raise h _

theorem sameResult_rdst (sel : Byte) : SameResult (execRdst sel s) (execRdst sel (s.withMem m)) := by
  have hv : (s.withMem m).statusByte sel = s.statusByte sel := rfl
  unfold execRdst
  rw [hv]
  cases s.statusByte sel
  · exact .raise h _
  · exact .answer h _

/-- R41: the host writes the same byte in both runs, into `KEYBUF` or elsewhere. -/
theorem sameResult_wrb (buf idx val : Byte) : SameResult (execWrb buf idx val s) (execWrb buf idx val (s.withMem m)) := by
  unfold execWrb
  cases (bufferOf buf).filter Buffer.hostWrites with
  | none => exact .raise h _
  | some b =>
    dsimp only
    split_ifs
    · exact SameButKeybuf.next ⟨rfl, State.writeRange_read_congr h (b.addr idx.toNat) [val]⟩
    · exact .raise h _

/-- R41: the host cannot read `KEYBUF`. -/
theorem sameResult_rdb (buf idx : Byte) : SameResult (execRdb buf idx s) (execRdb buf idx (s.withMem m)) := by
  unfold execRdb
  cases hb : (bufferOf buf).filter Buffer.hostReads with
  | none => exact .raise h _
  | some b =>
    have hkey : b ≠ .keybuf := by
      rintro rfl
      exact absurd (Option.filter_eq_some_iff.mp hb).2 Bool.false_ne_true
    dsimp only
    rw [State.byte_withMem h hkey]
    split_ifs
    · exact .answer h _
    · exact .raise h _

theorem sameResult_encb (len : Byte) : SameResult (execEncb len s) (execEncb len (s.withMem m)) := by
  have hcheck : (s.withMem m).blockCheck len = s.blockCheck len := rfl
  unfold execEncb
  rw [hcheck, State.inputBlock_withMem h]
  cases s.blockCheck len with
  | some e => exact .raise h e
  | none => exact SameButKeybuf.next ⟨rfl, (SameButKeybuf.setDout h _).2⟩

theorem sameResult_decb (len : Byte) : SameResult (execDecb len s) (execDecb len (s.withMem m)) := by
  have hcheck : (s.withMem m).blockCheck len = s.blockCheck len := rfl
  unfold execDecb
  rw [hcheck, State.inputBlock_withMem h]
  cases s.blockCheck len with
  | some e => exact .raise h e
  | none => exact SameButKeybuf.next ⟨rfl, (SameButKeybuf.setDout h _).2⟩

theorem sameResult_sbgen : SameResult (execSbgen s) (execSbgen (s.withMem m)) := by
  unfold execSbgen
  rw [State.withSbox_withMem]
  cases hu : s.withSbox with
  | error e => exact .raise h e
  | ok u => exact .answer (State.withSbox_mem hu ▸ h) _

theorem sameResult_sbfwd (x : Byte) : SameResult (execSbfwd x s) (execSbfwd x (s.withMem m)) := by
  unfold execSbfwd
  rw [State.withSbox_withMem]
  cases hu : s.withSbox with
  | error e => exact .raise h e
  | ok u => exact .answer (State.withSbox_mem hu ▸ h) _

theorem sameResult_sbinv (x : Byte) : SameResult (execSbinv x s) (execSbinv x (s.withMem m)) := by
  unfold execSbinv
  rw [State.withSbox_withMem]
  cases hu : s.withSbox with
  | error e => exact .raise h e
  | ok u => exact .answer (State.withSbox_mem hu ▸ h) _

theorem sameResult_ctxinit (mode pad ivlen : Byte) :
    SameResult (execCtxinit mode pad ivlen s) (execCtxinit mode pad ivlen (s.withMem m)) :=
  .branch (.raise h _) (.branch (.raise h _) (.branch (.raise h _) (SameButKeybuf.next ⟨rfl, h⟩)))

theorem sameResult_start (dir : Byte) : SameResult (execStart dir s) (execStart dir (s.withMem m)) := by
  refine .branch (.raise h _) (.branch (.raise h _) (.branch (.raise h _) ?_))
  rw [show (s.withMem m).mode = s.mode from rfl]
  cases modeOf s.mode with
  | none => exact .raise h _
  | some mode =>
    refine .branch (.raise h _) ?_
    rw [State.initFeedback_withMem h, State.initFeedback_eq s]
    exact SameButKeybuf.next ⟨rfl, h⟩

theorem sameResult_mblk (len : Byte) : SameResult (execMblk len s) (execMblk len (s.withMem m)) := by
  refine .branch (.raise h _) (.branch (.raise h _) (.branch (.raise h _) ?_))
  rw [show (s.withMem m).mode = s.mode from rfl]
  cases modeOf s.mode with
  | none => exact fun _ => nofun
  | some mode => exact ((SameButKeybuf.afterBlock h mode).answer 0x00).next

theorem sameResult_mpart (n : Byte) : SameResult (execMpart n s) (execMpart n (s.withMem m)) := by
  refine .branch (.raise h _) (.branch (.raise h _) ?_)
  rw [show (s.withMem m).mode = s.mode from rfl]
  cases (modeOf s.mode).filter Mode.hasKeystream with
  | none => exact .raise h _
  | some mode =>
    refine .branch (.raise h _) ?_
    rw [State.tailBytes_withMem h]
    exact SameButKeybuf.next ⟨rfl, State.writeRange_read_congr h _ _⟩

theorem sameResult_pad (n : Byte) : SameResult (execPad n s) (execPad n (s.withMem m)) := by
  unfold execPad
  rw [show (s.withMem m).paddingMode = s.paddingMode from rfl, show (s.withMem m).padsel = s.padsel from rfl]
  cases s.paddingMode with
  | error e => exact .raise h e
  | ok mode =>
    refine .branch (.branch (.raise h _) (.answer h n)) ?_
    cases paddingOf s.padsel with
    | none => exact .raise h _
    | some p => exact .branch (.raise h _) (SameButKeybuf.next ⟨rfl, State.writeRange_read_congr h _ _⟩)

theorem sameResult_unpad : SameResult (execUnpad s) (execUnpad (s.withMem m)) := by
  have hdout : (s.withMem m).byte .dout = s.byte .dout := funext (State.byte_withMem h (by decide))
  unfold execUnpad
  rw [show (s.withMem m).paddingMode = s.paddingMode from rfl, show (s.withMem m).padsel = s.padsel from rfl,
    show (s.withMem m).nb = s.nb from rfl, hdout]
  cases s.paddingMode with
  | error e => exact .raise h e
  | ok mode =>
    refine .branch (.answer h _) ?_
    cases paddingOf s.padsel with
    | none => exact .raise h _
    | some p =>
      dsimp only
      cases padLength p (blockBytes s.nb) (s.byte .dout) with
      | none => exact .raise h _
      | some len => exact .answer h _

theorem exec_sameButKeybuf_withMem (i : Instr) (hi : ∀ len, i ≠ .kexp len) : SameResult (exec i s) (exec i (s.withMem m)) := by
  cases i with
  | gfadd | gfmul | gfinv | gfirr => exact SameButKeybuf.next ⟨rfl, h⟩
  | gfirrn k => exact sameResult_gfirrn h k
  | cfg nk nb k => exact sameResult_cfg h nk nb k
  | sbgen => exact sameResult_sbgen h
  | sbfwd x => exact sameResult_sbfwd h x
  | sbinv x => exact sameResult_sbinv h x
  | kexp len => exact absurd rfl (hi len)
  | rcon j => exact sameResult_rcon h j
  | encb len => exact sameResult_encb h len
  | decb len => exact sameResult_decb h len
  | ctxinit mode pad ivlen => exact sameResult_ctxinit h mode pad ivlen
  | start dir => exact sameResult_start h dir
  | mblk len => exact sameResult_mblk h len
  | mpart n => exact sameResult_mpart h n
  | pad n => exact sameResult_pad h n
  | unpad => exact sameResult_unpad h
  | wrb buf idx val => exact sameResult_wrb h buf idx val
  | rdb buf idx => exact sameResult_rdb h buf idx
  | rdst sel => exact sameResult_rdst h sel
  | rst => exact SameButKeybuf.next ⟨rfl, fun _ _ => rfl⟩

end KeyBuffer

theorem exec_sameButKeybuf {i : Instr} {s s' : State} (h : SameButKeybuf s s') (hi : ∀ len, i ≠ .kexp len) :
    SameResult (exec i s) (exec i s') := by
  rw [h.1]
  exact exec_sameButKeybuf_withMem h.2 i hi

end Sys2Proof.Machine

namespace Sys2Proof.Proofs

open Sys2Proof.Machine

/-- Settles O43: the conditions of each meaning, as its law states them, against those of the table. -/
theorem firstFailingCheckDecides : Obligations.FirstFailingCheckDecides := by
  unfold Obligations.FirstFailingCheckDecides
  exact fun i s t => err_eq_firstFailure

/-- Settles O44: the error is that of the table of check orders, whose codes are those the table of errors lists. -/
theorem errorCodesAreThoseListed : Obligations.ErrorCodesAreThoseListed := by
  unfold Obligations.ErrorCodesAreThoseListed
  refine ⟨fun i s t h => ?_, mem_errCodes_of_mem_mayAnswer, fun s t w rest hs hw h => ?_⟩
  · rw [err_eq_firstFailure h]
    exact firstFailure_mem_mayAnswer i s
  · cases hd : decode w with
    | ok i => exact absurd hd (hw i)
    | error e =>
      rw [step_of_decode_error hs hd] at h
      exact Host.Outcome.next.inj h ▸ rfl

/-- Settles O46: an error ORs the bit of its kind into `EFLAGS`, an effect leaves them alone. -/
theorem eflagsAreSticky : Obligations.EflagsAreSticky := by
  unfold Obligations.EflagsAreSticky
  intro i s t hi h
  obtain ⟨e, rfl⟩ | heffect := exec_raises_or_effect h
  · rw [State.raise_eflags, State.raise_err, e.kind_number]
    refine ⟨fun b hb => by rw [getLsbD_stickyFlags, hb, Bool.true_or], fun h0 => absurd h0 e.code_ne_zero, ?_⟩
    simp only [getLsbD_stickyFlags]
    grind
  · obtain ⟨herr, hflags⟩ := heffect.status
    rw [hflags hi, herr]
    exact ⟨fun _ hb => hb, fun _ => rfl, nofun, nofun, nofun, nofun⟩

/-- Settles O47: an error writes the status registers alone, and each effect is an update of the fields it names. -/
theorem registersHaveOnlyTheirWriters : Obligations.RegistersHaveOnlyTheirWriters := by
  unfold Obligations.RegistersHaveOnlyTheirWriters
  intro i s t h hi
  obtain ⟨e, rfl⟩ | heffect := exec_raises_or_effect h
  · simp +contextual
  · cases heffect with
    | build hi _ hu =>
      obtain rfl | ⟨x, rfl⟩ | ⟨x, rfl⟩ := hi <;> simp +contextual [State.withTables, State.ensureSbox_of_sbValid hu]
    | expand _ _ hu => simp +contextual [State.withTables, State.withSchedule, State.ensureSbox_of_sbValid hu]
    | answer | cipher => simp +contextual
    | configure | context | start | block | tail | padded | write => simp
    | reset => exact absurd rfl hi

/-- Settles O48: each effect on memory is a run of bytes in one buffer. -/
theorem buffersHaveOnlyTheirWriters : Obligations.BuffersHaveOnlyTheirWriters := by
  unfold Obligations.BuffersHaveOnlyTheirWriters
  intro i s t h hi
  have hbuf (c : Buffer) (hw : writesBuffer i c = false) (j : Nat) (hj : j < 32) : t.byte c j = s.byte c j :=
    byte_of_not_writesBuffer h hi hw hj
  refine ⟨fun hw j hj => ⟨hbuf .keybuf ?_ j hj, hbuf .ivbuf ?_ j hj⟩, fun hw => hbuf .din ?_, fun hw => hbuf .dout ?_⟩ <;>
    cases i <;> simp_all [writesBuffer, Buffer.hostWrites]

/-- Settles O49: the two runs take the same branches, and what they read of memory lies outside `KEYBUF`. -/
theorem keyBufferIsNotReadable : Obligations.KeyBufferIsNotReadable := by
  unfold Obligations.KeyBufferIsNotReadable
  intro i s s' t hsame hi h
  obtain ⟨t', ht', ht⟩ := exec_sameButKeybuf hsame hi t h
  refine ⟨t', ht', ?_, ht⟩
  rw [ht.1]
  rfl

end Sys2Proof.Proofs
